-- ==== Sys2Proof/Word.lean ====
section
/-! DEFINITION. The words of SGFE: bytes, 16-bit halves, and the two kinds of instruction word that
spec/30_encoding.md tells apart. -/

namespace Sys2Proof

/-- A byte, an unsigned value of 8 bits (00_scope.md R8). -/
abbrev Byte := BitVec 8

/-- A 16-bit value: the request argument, the frame's parameter, the checksum. -/
abbrev Half := BitVec 16

/-- One instruction word. REQ is the 20-bit request of 30_encoding.md R60; FRAME is the 80-bit frame of
R64, byte 0 its most significant byte (00_scope.md R9). -/
inductive InsnWord where
  | req (w : BitVec 20)
  | frame (f : BitVec 80)
deriving DecidableEq, Repr

end Sys2Proof
end

