-- ==== Sys2Proof/Syntax.lean ====
section
/-! DEFINITION. The instructions of SGFE: one constructor per row of spec/opcode_table.json, 16 requests
(30_encoding.md R61, R62) and 9 frames (40_encoder.md R95). -/

namespace Sys2Proof

/-- The CommandCode enumeration (40_encoder.md R95): what byte 3 of a frame says. -/
inductive CommandCode where
  | play | pause | next | prev | setVolume | playFromFolder | stop | reset | queryStatus
deriving DecidableEq, Repr

/-- The instructions. A request carries its 16-bit argument whole, also where R63 says that it is ignored, so
that no bit of an encoding is lost. A frame carries its two parameter bytes and its checksum field, for the
table's rows match a frame whatever the checksum bytes hold (30_encoding.md R64). -/
inductive Instr where
  | init (arg : Half)
  | isonline (arg : Half)
  | setvol (v : Half)
  | getvol (arg : Half)
  | playtrk (track : Half)
  | playfld (folder track : Byte)
  | pause (arg : Half)
  | resume (arg : Half)
  | stop (arg : Half)
  | next (arg : Half)
  | prev (arg : Half)
  | volup (arg : Half)
  | voldn (arg : Half)
  | reservedD (arg : Half)
  | reservedE (arg : Half)
  | reservedF (arg : Half)
  | framePlay (paramHigh paramLow : Byte) (ck : Half)
  | framePause (paramHigh paramLow : Byte) (ck : Half)
  | frameNext (paramHigh paramLow : Byte) (ck : Half)
  | framePrev (paramHigh paramLow : Byte) (ck : Half)
  | frameSetVolume (paramHigh paramLow : Byte) (ck : Half)
  | framePlayFromFolder (paramHigh paramLow : Byte) (ck : Half)
  | frameStop (paramHigh paramLow : Byte) (ck : Half)
  | frameReset (paramHigh paramLow : Byte) (ck : Half)
  | frameQueryStatus (paramHigh paramLow : Byte) (ck : Half)
deriving DecidableEq, Repr

/-- The variable fields of a frame (30_encoding.md R64). -/
structure FrameFields where
  command : CommandCode
  paramHigh : Byte
  paramLow : Byte
  checksum : Half
deriving DecidableEq, Repr

/-- The fields of a frame instruction; none for a request. -/
def Instr.frameFields : Instr → Option FrameFields
  | .framePlay h l ck => some ⟨.play, h, l, ck⟩
  | .framePause h l ck => some ⟨.pause, h, l, ck⟩
  | .frameNext h l ck => some ⟨.next, h, l, ck⟩
  | .framePrev h l ck => some ⟨.prev, h, l, ck⟩
  | .frameSetVolume h l ck => some ⟨.setVolume, h, l, ck⟩
  | .framePlayFromFolder h l ck => some ⟨.playFromFolder, h, l, ck⟩
  | .frameStop h l ck => some ⟨.stop, h, l, ck⟩
  | .frameReset h l ck => some ⟨.reset, h, l, ck⟩
  | .frameQueryStatus h l ck => some ⟨.queryStatus, h, l, ck⟩
  | .init _ | .isonline _ | .setvol _ | .getvol _ | .playtrk _ | .playfld _ _ | .pause _ | .resume _
  | .stop _ | .next _ | .prev _ | .volup _ | .voldn _ | .reservedD _ | .reservedE _ | .reservedF _ => none

/-- The instruction that a frame's fields stand for. -/
def FrameFields.instr (x : FrameFields) : Instr :=
  match x.command with
  | .play => .framePlay x.paramHigh x.paramLow x.checksum
  | .pause => .framePause x.paramHigh x.paramLow x.checksum
  | .next => .frameNext x.paramHigh x.paramLow x.checksum
  | .prev => .framePrev x.paramHigh x.paramLow x.checksum
  | .setVolume => .frameSetVolume x.paramHigh x.paramLow x.checksum
  | .playFromFolder => .framePlayFromFolder x.paramHigh x.paramLow x.checksum
  | .stop => .frameStop x.paramHigh x.paramLow x.checksum
  | .reset => .frameReset x.paramHigh x.paramLow x.checksum
  | .queryStatus => .frameQueryStatus x.paramHigh x.paramLow x.checksum

/-- Is the instruction a request (a REQ row of the table)? -/
def Instr.isRequest (i : Instr) : Bool := i.frameFields.isNone

end Sys2Proof
end

