-- ==== Sys2Proof/Decode.lean ====
section
/-! DEFINITION. Decoding and encoding of the two formats of 30_encoding.md: the request word (R60, R61) and the
frame (R64), and the command bytes (40_encoder.md R95). Decoding is total; a frame that is no frame of this
protocol is rejected by the name of what is wrong with it. -/

namespace Sys2Proof

/-- The constant bytes of a frame (00_scope.md R6). -/
def startByte : Byte := 0x7E#8
def versionByte : Byte := 0xFF#8
def lengthByte : Byte := 0x06#8
def feedbackByte : Byte := 0x00#8
def endByte : Byte := 0xEF#8

/-- The command byte of a CommandCode (40_encoder.md R95). -/
def CommandCode.code : CommandCode → Byte
  | .play => 0x03#8
  | .pause => 0x0E#8
  | .next => 0x01#8
  | .prev => 0x02#8
  | .setVolume => 0x06#8
  | .playFromFolder => 0x0F#8
  | .stop => 0x16#8
  | .reset => 0x0C#8
  | .queryStatus => 0x42#8

/-- The nine CommandCodes (40_encoder.md R95), in the order of its table. -/
def commandCodes : List CommandCode :=
  [.play, .pause, .next, .prev, .setVolume, .playFromFolder, .stop, .reset, .queryStatus]

/-- The CommandCode of a command byte; none for the 247 bytes that R69 leaves undefined. -/
def commandOfByte (b : Byte) : Option CommandCode :=
  commandCodes.find? fun c => c.code == b

/-- A frame as one 80-bit value, byte 0 most significant (30_encoding.md R64). -/
def packFrame (command paramHigh paramLow : Byte) (ck : Half) : BitVec 80 :=
  startByte ++ versionByte ++ lengthByte ++ command ++ feedbackByte ++ paramHigh ++ paramLow ++ ck ++ endByte

/-- Byte `k` of a frame, `f[79 - 8k : 72 - 8k]` (41_delivery.md R124), for `k` at most 9. -/
def frameByte (f : BitVec 80) (k : Nat) : Byte := f.extractLsb' (72 - 8 * k) 8

/-- The ten bytes of a frame in the order of transmission (00_scope.md R9). -/
def frameBytes (f : BitVec 80) : List Byte := (List.range 10).map (frameByte f)

/-- The bytes of a 16-bit field, the high byte first on the stream (20_memory.md R42). -/
def highByte (x : Half) : Byte := x.extractLsb' 8 8
def lowByte (x : Half) : Byte := x.extractLsb' 0 8

/-- Why a word is no instruction: one name for each fixed byte of 30_encoding.md R64, one for a command byte
outside R95, one for a byte sequence that is not ten bytes long (R72). -/
inductive DecodeError where
  | badStart (b : Byte)
  | badVersion (b : Byte)
  | badLength (b : Byte)
  | undefinedCommand (b : Byte)
  | badFeedback (b : Byte)
  | badEnd (b : Byte)
  | notTenBytes (n : Nat)
deriving DecidableEq, Repr

/-- The operation a request word selects (30_encoding.md R61, R62): the 4-bit field `op` alone decides, and every
word selects one. The last arm is opcode `0xF`, the only value left. -/
def decodeReq (w : BitVec 20) : Instr :=
  let arg : Half := w.extractLsb' 0 16
  match w.extractLsb' 16 4 with
  | 0x0#4 => .init arg
  | 0x1#4 => .isonline arg
  | 0x2#4 => .setvol arg
  | 0x3#4 => .getvol arg
  | 0x4#4 => .playtrk arg
  | 0x5#4 => .playfld (highByte arg) (lowByte arg)
  | 0x6#4 => .pause arg
  | 0x7#4 => .resume arg
  | 0x8#4 => .stop arg
  | 0x9#4 => .next arg
  | 0xA#4 => .prev arg
  | 0xB#4 => .volup arg
  | 0xC#4 => .voldn arg
  | 0xD#4 => .reservedD arg
  | 0xE#4 => .reservedE arg
  | _ => .reservedF arg

/-- The frame a FRAME word is, by its fixed bytes and its command byte (30_encoding.md R64, R69). A match does
not check the checksum, as R64 says of the table's rows; `Instr.wellFormed` does (R71). -/
def decodeFrame (f : BitVec 80) : Except DecodeError Instr :=
  if frameByte f 0 ≠ startByte then .error (.badStart (frameByte f 0))
  else if frameByte f 1 ≠ versionByte then .error (.badVersion (frameByte f 1))
  else if frameByte f 2 ≠ lengthByte then .error (.badLength (frameByte f 2))
  else if frameByte f 4 ≠ feedbackByte then .error (.badFeedback (frameByte f 4))
  else if frameByte f 9 ≠ endByte then .error (.badEnd (frameByte f 9))
  else match commandOfByte (frameByte f 3) with
    | none => .error (.undefinedCommand (frameByte f 3))
    | some c =>
      .ok (FrameFields.instr ⟨c, frameByte f 5, frameByte f 6, frameByte f 7 ++ frameByte f 8⟩)

/-- The instruction of a word. -/
def decode : InsnWord → Except DecodeError Instr
  | .req w => .ok (decodeReq w)
  | .frame f => decodeFrame f

/-- Ten bytes, byte 0 first, as one 80-bit value; none for any other number of bytes. -/
def frameOfBytes : List Byte → Option (BitVec 80)
  | [b0, b1, b2, b3, b4, b5, b6, b7, b8, b9] =>
    some (b0 ++ b1 ++ b2 ++ b3 ++ b4 ++ b5 ++ b6 ++ b7 ++ b8 ++ b9)
  | _ => none

/-- The frame a sequence of bytes is: total on any bytes (30_encoding.md R71, R72). -/
def decodeBytes (bs : List Byte) : Except DecodeError Instr :=
  match frameOfBytes bs with
  | some f => decodeFrame f
  | none => .error (.notTenBytes bs.length)

/-- The request word of an opcode and an argument, `op << 16 | arg` (30_encoding.md R60, R73). -/
def reqWord (op : BitVec 4) (arg : Half) : BitVec 20 := op ++ arg

/-- The FRAME word of a command and the frame's other fields. -/
def frameWord (c : CommandCode) (paramHigh paramLow : Byte) (ck : Half) : InsnWord :=
  .frame (packFrame c.code paramHigh paramLow ck)

/-- The word of an instruction, from the tables of 30_encoding.md R61, R64 and 40_encoder.md R95. -/
def encode : Instr → InsnWord
  | .init a => .req (reqWord 0x0#4 a)
  | .isonline a => .req (reqWord 0x1#4 a)
  | .setvol v => .req (reqWord 0x2#4 v)
  | .getvol a => .req (reqWord 0x3#4 a)
  | .playtrk t => .req (reqWord 0x4#4 t)
  | .playfld d t => .req (reqWord 0x5#4 (d ++ t))
  | .pause a => .req (reqWord 0x6#4 a)
  | .resume a => .req (reqWord 0x7#4 a)
  | .stop a => .req (reqWord 0x8#4 a)
  | .next a => .req (reqWord 0x9#4 a)
  | .prev a => .req (reqWord 0xA#4 a)
  | .volup a => .req (reqWord 0xB#4 a)
  | .voldn a => .req (reqWord 0xC#4 a)
  | .reservedD a => .req (reqWord 0xD#4 a)
  | .reservedE a => .req (reqWord 0xE#4 a)
  | .reservedF a => .req (reqWord 0xF#4 a)
  | .framePlay h l ck => frameWord .play h l ck
  | .framePause h l ck => frameWord .pause h l ck
  | .frameNext h l ck => frameWord .next h l ck
  | .framePrev h l ck => frameWord .prev h l ck
  | .frameSetVolume h l ck => frameWord .setVolume h l ck
  | .framePlayFromFolder h l ck => frameWord .playFromFolder h l ck
  | .frameStop h l ck => frameWord .stop h l ck
  | .frameReset h l ck => frameWord .reset h l ck
  | .frameQueryStatus h l ck => frameWord .queryStatus h l ck

/-- The word whose bits the opcode table numbers: a REQ row has 20 bits (24 in whole bytes, the upper four of
them absent and so 0), a FRAME row 80, byte 0 most significant. No row has another length (log entry 13). -/
def tableWord (nbits w : Nat) : Option InsnWord :=
  if nbits = 20 ∨ nbits = 24 then
    if w < 2 ^ 20 then some (.req (BitVec.ofNat 20 w)) else none
  else if nbits = 80 then
    if w < 2 ^ 80 then some (.frame (BitVec.ofNat 80 w)) else none
  else none

/-- The instruction the decoder reads from an instruction whose bits are `w`. -/
def decodeTableWord (nbits w : Nat) : Option Instr :=
  (tableWord nbits w).bind fun x => (decode x).toOption

end Sys2Proof
end

