-- ==== Sys2Proof/Machine/Encoder.lean ====
section
/-! DEFINITION. The frame encoder of 40_encoder.md: the checksum (R91), `ENCODE` (R90), the frame validity
predicate of a receiving end (30_encoding.md R71). -/

namespace Sys2Proof.Machine

/-- The sum of bytes 1 to 6 of a frame, a number (40_encoder.md R90). -/
def frameSum (command paramHigh paramLow : Byte) : Nat :=
  versionByte.toNat + lengthByte.toNat + command.toNat + feedbackByte.toNat + paramHigh.toNat + paramLow.toNat

/-- The checksum: the 16-bit two's-complement negation of the sum (40_encoder.md R90, R91). The law, not the
source's misprinted literal, decides (90_conflicts.md C1). -/
def checksum (command paramHigh paramLow : Byte) : Half :=
  BitVec.ofNat 16 ((0x10000 - frameSum command paramHigh paramLow) % 0x10000)

/-- `ENCODE(c, h, l)`, for every byte value of `c` (40_encoder.md R90, R94). -/
def encodeFrame (command paramHigh paramLow : Byte) : BitVec 80 :=
  packFrame command paramHigh paramLow (checksum command paramHigh paramLow)

/-- Is a sequence of bytes a well-formed frame of this protocol (30_encoding.md R71)? -/
def validFrame : List Byte → Bool
  | [b0, b1, b2, b3, b4, b5, b6, b7, b8, b9] =>
    b0 == startByte && b1 == versionByte && b2 == lengthByte && b4 == feedbackByte && b9 == endByte &&
      (b1.toNat + b2.toNat + b3.toNat + b4.toNat + b5.toNat + b6.toNat + 256 * b7.toNat + b8.toNat) % 65536 == 0
  | _ => false

/-- The issued set: the command bytes SGFE ever sends (40_encoder.md R95). -/
def issuedCodes : List Byte := [0x01#8, 0x02#8, 0x03#8, 0x06#8, 0x0C#8, 0x0E#8, 0x0F#8, 0x16#8]

end Sys2Proof.Machine
end

