-- ==== Sys2Proof/Machine/Operands.lean ====
section
/-! DEFINITION. The operand forms of the requests (30_encoding.md R63 to R67) and the volume's arithmetic
(40_encoder.md R92 (f)). -/

namespace Sys2Proof.Machine

/-- `signed_16(v)` (00_scope.md R8): the integer a 16-bit pattern denotes in two's complement. -/
def signed16 (v : Half) : Int := v.toInt

/-- `clamp(v, lo, hi)` over the integers (00_scope.md R8). -/
def clamp (v lo hi : Int) : Int := if v < lo then lo else if v > hi then hi else v

/-- `VOL_MIN` and `VOL_MAX` (00_scope.md R6). -/
def volMin : Int := 0
def volMax : Int := 30

/-- The volume register's value for a requested volume: `clamp(v, 0, 30)` (30_encoding.md R67). -/
def clampVolume (v : Int) : BitVec 5 := BitVec.ofInt 5 (clamp v volMin volMax)

/-- A volume as a byte, `zext_8` (00_scope.md R8). -/
def volumeByte (vol : BitVec 5) : Byte := vol.setWidth 8

/-- A flag as a byte, `zext_8` (00_scope.md R8). -/
def flagByte (b : Bool) : Byte := if b then 0x01#8 else 0x00#8

end Sys2Proof.Machine
end

