-- ==== Sys2Proof/Config.lean ====
section
/-! DEFINITION. What an implementation fixes (00_scope.md R7) and what the outside world may do
(00_scope.md R13, R15): the two open parameters, the input pins, and the free constants behind them. -/

namespace Sys2Proof

/-- The parameters the spec leaves to the implementation (00_scope.md R7): a model takes them as an argument.
The other parameters of R7 are widths, or follow from these two (Machine/Timing.lean). -/
structure Params where
  /-- `CYCLES_PER_MS`, open, an integer of at least 1 (92_eei_decisions.md D2). -/
  cyclesPerMs : ℕ+
  /-- `STEP_AT_LIMIT_SENDS`, open, default false (92_eei_decisions.md D12). -/
  stepAtLimitSends : Bool
deriving DecidableEq, Repr

/-- The input pins of one clock cycle (10_state.md R32, the rows of direction "in"; `clk` is the step itself). -/
structure Pins where
  rst : Bool
  reqValid : Bool
  reqOp : BitVec 4
  reqArg : Half
  txReady : Bool
deriving DecidableEq, Repr, Inhabited

/-- The clock rate of the machine at hand, in cycles per millisecond: open (D2), so free. No proof can see it. -/
opaque Config.cyclesPerMs : ℕ+

/-- What the host and the sink put on the input pins in a cycle for which the state lists none: free
(41_delivery.md R136 asks for a free `tx_ready`). No proof can see it. -/
opaque Config.freePins : Nat → Pins

/-- The spec's default for `STEP_AT_LIMIT_SENDS` (00_scope.md R7, 93_implementation_defined.md U11). -/
def Config.stepAtLimitSends : Bool := false

/-- The parameters the machine has at reset (log entry 3). -/
def Config.params : Params := ⟨Config.cyclesPerMs, Config.stepAtLimitSends⟩

end Sys2Proof
end

