-- ==== Sys2Proof/Machine/State.lean ====
section
/-! DEFINITION. The state of SGFE: the architectural registers (10_state.md R20, R21), the sequencer's registers
(R26, R27), the events produced so far (00_scope.md R11), and the model's own fields for the parameters and the
input pins. -/

namespace Sys2Proof.Machine

/-- `PHASE`, by the names of 10_state.md R27. All eight codes of the 3-bit register are here, so that "6 and 7 are
unreachable" is a statement about the machine and not an effect of the type. -/
inductive Phase where
  | idle | bootw | send | settle | rstw | done | unused6 | unused7
deriving DecidableEq, Repr

/-- The value of the 3-bit register `PHASE` (10_state.md R27). -/
def Phase.code : Phase → BitVec 3
  | .idle => 0 | .bootw => 1 | .send => 2 | .settle => 3 | .rstw => 4 | .done => 5 | .unused6 => 6 | .unused7 => 7

/-- An event of the trace (00_scope.md R11). -/
inductive Event where
  /-- A byte handed to the transport. -/
  | tx (b : Byte)
  /-- A wait of so many milliseconds, recorded in its last cycle (log entry 6). -/
  | wait (ms : Nat)
  /-- The operation returns this value. -/
  | ret (v : Byte)
deriving DecidableEq, Repr

/-- The machine in one clock cycle: the registers as they stand during the cycle, before the edge that ends it,
and the input pins of that cycle (a row of the timelines of 95_test_vectors.md part 3). -/
structure State where
  /-- `VOL` (10_state.md R20). -/
  vol : BitVec 5
  /-- `ONLINE` (R21). -/
  online : Bool
  /-- `PHASE` (R26, R27). -/
  phase : Phase
  /-- `INITSTG` (R26). -/
  initStg : BitVec 2
  /-- `FBUF`, byte 0 of the frame most significant (R26, R28). -/
  fbuf : BitVec 80
  /-- `BIDX` (R26). -/
  bidx : BitVec 4
  /-- `TMR` (R26); its width depends on a parameter, so it is a number, bounded by an invariant (log entry 10). -/
  tmr : Nat
  /-- `RVAL` (R26). -/
  rval : Byte
  /-- The events so far, oldest first (00_scope.md R11); the model's own field (log entry 6). -/
  trace : List Event
  /-- The implementation's parameters; no step writes them (log entry 3). -/
  params : Params
  /-- The input pins of this cycle (log entry 2). -/
  pins : Pins
  /-- The input pins of the cycles that follow, next one first (log entry 2). -/
  upcoming : List Pins
  /-- The number of this cycle; it only selects the free values of `Config.freePins` (log entry 2). -/
  cycle : Nat
deriving DecidableEq, Repr

/-- What stops the machine: nothing. SGFE raises no exception and the set of causes is empty (60_exceptions.md
R170), so no step answers a fault; there is no constructor, which is neither safe nor unsafe. -/
inductive Fault where
deriving DecidableEq, Repr

/-- Why the model gives a cycle no meaning. All but the first are the codes that 93_implementation_defined.md U6
says to refuse; no run from reset reaches one (10_state.md R29). -/
inductive Refusal where
  /-- Raised by the dispatch for an instruction the model does not know yet; safe. -/
  | notModelled (mnemonic : String)
  /-- Raised by a cycle in `PHASE` 6 or 7 (R27, U6): no rule says what it does; safe. -/
  | unreachablePhase
  /-- Raised at the end of `SETTLE` with `INITSTG` = 3 (R26, U6): R129 has no such case; safe. -/
  | unreachableInitStage
  /-- Raised by a cycle of `SEND` with `BIDX` above 9 (R26, U6): there is no such byte of `FBUF`; safe. -/
  | unreachableByteIndex
  /-- Raised by a wait phase with `TMR` = 0 (41_delivery.md R133): R133 has no such case; safe. -/
  | unreachableTimer
deriving DecidableEq, Repr

/-- The machine after reset (10_state.md R33, 70_reset_and_hazards.md R190). `FBUF` has no reset value in the spec;
the model names 0 (log entry 4). The parameters and the pins are free (log entries 2 and 3). -/
def State.reset : State where
  vol := 20
  online := false
  phase := .idle
  initStg := 0
  fbuf := 0
  bidx := 0
  tmr := 0
  rval := 0
  trace := []
  params := Config.params
  pins := Config.freePins 0
  upcoming := []
  cycle := 0

end Sys2Proof.Machine
end

