-- ==== Sys2Proof/Machine/Timing.lean ====
section
/-! DEFINITION. The durations of the protocol (00_scope.md R6), the waits in cycles and the width of the delay
counter (00_scope.md R7). -/

namespace Sys2Proof.Machine

/-- `T_SETTLE_MS`, `T_BOOT_MS`, `T_RESET_MS` (00_scope.md R6). -/
def tSettleMs : Nat := 30
def tBootMs : Nat := 500
def tResetMs : Nat := 1000

/-- A wait of so many milliseconds, in cycles (00_scope.md R7). -/
def waitCycles (p : Params) (ms : Nat) : Nat := ms * (p.cyclesPerMs : Nat)

/-- `N_SETTLE`, `N_BOOT`, `N_RESET` (00_scope.md R7). -/
def nSettle (p : Params) : Nat := waitCycles p tSettleMs
def nBoot (p : Params) : Nat := waitCycles p tBootMs
def nReset (p : Params) : Nat := waitCycles p tResetMs

/-- `TMRW`, the least `w` with `2^w > N_RESET` (00_scope.md R7). -/
def tmrw (p : Params) : Nat := Nat.log2 (nReset p) + 1

end Sys2Proof.Machine
end

