-- ==== Sys2Proof/Machine/Ops.lean ====
section
/-! DEFINITION. The named operations on the state that the instructions and the sequencer share: the transport
stream, the register writes, starting and finishing an operation (41_delivery.md R127), the wait (R133), handing
over a byte (R128), the phases' exits (R129 to R131), reset (70_reset_and_hazards.md R190), the input and output
pins (10_state.md R32) and the clock. SGFE takes no exception (60_exceptions.md R174), so there is no such operation. -/

namespace Sys2Proof.Machine

/-- What one step of the machine answers. -/
abbrev Answer := Host.Outcome State Fault Refusal

/-! ## The stream and the registers -/

/-- Append an event to the trace. -/
def State.emit (s : State) (e : Event) : State := { s with trace := s.trace ++ [e] }

/-- The bytes of a trace, in order: what the transport was handed (20_memory.md R51). -/
def streamOf (tr : List Event) : List Byte :=
  tr.filterMap fun e => match e with
    | .tx b => some b
    | .wait _ => none
    | .ret _ => none

/-- The transport stream, the machine's one data space (20_memory.md R40). -/
def State.stream (s : State) : List Byte := streamOf s.trace

/-- `VOL <- v`. -/
def State.setVol (s : State) (v : BitVec 5) : State := { s with vol := v }

/-- Load a frame and enter `SEND`: `FBUF <- f; BIDX <- 0; PHASE <- SEND` (10_state.md R28). -/
def State.sendFrame (s : State) (f : BitVec 80) : State := { s with fbuf := f, bidx := 0, phase := .send }

/-- `start(c, h, l)` of 41_delivery.md R127. -/
def State.start (s : State) (c : CommandCode) (h l : Byte) : State :=
  { s.sendFrame (encodeFrame c.code h l) with initStg := 0, rval := 0x00#8 }

/-- `finish(v)` of 41_delivery.md R127. -/
def State.finish (s : State) (v : Byte) : State := { s with rval := v, phase := .done }

/-- Begin a wait of `n` cycles in phase `ph` (41_delivery.md R133). -/
def State.startWait (s : State) (n : Nat) (ph : Phase) : State := { s with tmr := n, phase := ph }

/-- The SetVolume frame of a volume (40_encoder.md R100). -/
def setVolumeFrame (v : BitVec 5) : BitVec 80 := encodeFrame CommandCode.setVolume.code 0x00#8 (volumeByte v)

/-- The Reset frame (40_encoder.md R103). -/
def resetFrame : BitVec 80 := encodeFrame CommandCode.reset.code 0x00#8 0x00#8

/-! ## The phases -/

/-- One cycle of a wait phase whose exit action is `exit` (41_delivery.md R133). `TMR` = 0 does not occur in a wait
phase and no rule covers it. -/
def waitCycle (exit : State → Answer) (s : State) : Answer :=
  match s.tmr with
  | 0 => .refused .unreachableTimer
  | 1 => exit s
  | n + 2 => .next { s with tmr := n + 1 }

/-- One cycle of `SEND` with the frame `f` on offer (41_delivery.md R124, R128). There is no byte 10 to 15. -/
def sendByte (f : BitVec 80) (s : State) : Answer :=
  if 9 < s.bidx.toNat then .refused .unreachableByteIndex
  else if s.pins.txReady = false then .next s
  else if s.bidx.toNat < 9 then
    .next { s.emit (.tx (frameByte f s.bidx.toNat)) with bidx := s.bidx + 1 }
  else
    .next ((s.emit (.tx (frameByte f 9))).startWait (nSettle s.params) .settle)

/-- The exit of `BOOTW` (41_delivery.md R130): the Reset frame is next. -/
def bootwExit (s : State) : Answer := .next ((s.emit (.wait tBootMs)).sendFrame resetFrame)

/-- The exit of `RSTW` (41_delivery.md R130): the frame of the stored volume is next. -/
def rstwExit (s : State) : Answer :=
  .next { (s.emit (.wait tResetMs)).sendFrame (setVolumeFrame s.vol) with initStg := 2 }

/-- The exit of `SETTLE`, by `INITSTG` (41_delivery.md R129). -/
def settleExit (s : State) : Answer :=
  if s.initStg = 0#2 then .next { s.emit (.wait tSettleMs) with phase := .done }
  else if s.initStg = 1#2 then .next ((s.emit (.wait tSettleMs)).startWait (nReset s.params) .rstw)
  else if s.initStg = 2#2 then
    .next { s.emit (.wait tSettleMs) with online := true, initStg := 0, phase := .done }
  else .refused .unreachableInitStage

/-- The `DONE` cycle: the operation returns (41_delivery.md R131). -/
def doneCycle (s : State) : Answer := .next { s.emit (.ret s.rval) with phase := .idle }

/-- A cycle in which no instruction is executed, by `PHASE`: `IDLE` without a request (41_delivery.md R127), the
waits, `DONE`, and `SEND` of a value that is none of the nine frames, which R128 hands over like any other. -/
def sequencerCycle (s : State) : Answer :=
  match s.phase with
  | .idle => .next s
  | .bootw => waitCycle bootwExit s
  | .send => sendByte s.fbuf s
  | .settle => waitCycle settleExit s
  | .rstw => waitCycle rstwExit s
  | .done => doneCycle s
  | .unused6 => .refused .unreachablePhase
  | .unused7 => .refused .unreachablePhase

/-! ## The output pins (10_state.md R32), functions of the registers, forced to 0 while `rst` = 1 -/

/-- `req_ready` (41_delivery.md R125). -/
def State.reqReady (s : State) : Bool := decide (s.phase = .idle) && !s.pins.rst

/-- `tx_valid` (41_delivery.md R124). -/
def State.txValid (s : State) : Bool := decide (s.phase = .send) && !s.pins.rst

/-- `rsp_valid` (41_delivery.md R126). -/
def State.rspValid (s : State) : Bool := decide (s.phase = .done) && !s.pins.rst

/-- `tx_data` while it means something; no value otherwise (93_implementation_defined.md U4, log entry 11). -/
def State.txData (s : State) : Option Byte := if s.txValid then some (frameByte s.fbuf s.bidx.toNat) else none

/-- `rsp_data` while it means something; no value otherwise (U4, log entry 11). -/
def State.rspData (s : State) : Option Byte := if s.rspValid then some s.rval else none

/-! ## Fetching, reset and the clock -/

/-- The request word on the pins (30_encoding.md R60). -/
def Pins.word (p : Pins) : BitVec 20 := reqWord p.reqOp p.reqArg

/-- The word whose instruction this cycle executes: in `IDLE` the request on the port, if one is offered
(41_delivery.md R125); in `SEND` the frame in `FBUF` (R128). -/
def fetchWord (s : State) : Option InsnWord :=
  match s.phase with
  | .idle => if s.pins.reqValid then some (.req (Pins.word s.pins)) else none
  | .send => some (.frame s.fbuf)
  | .bootw | .settle | .rstw | .done | .unused6 | .unused7 => none

/-- The instruction this cycle executes, if any. -/
def fetch (s : State) : Option Instr := (fetchWord s).bind fun w => (decode w).toOption

/-- The registers' reset values at the edge that ends a cycle with `rst` = 1 (70_reset_and_hazards.md R190): no
event, and what was handed over stays handed over (R192). `FBUF` as in `State.reset` (log entry 4). -/
def State.resetEdge (s : State) : State :=
  { s with
    vol := 20, online := false, phase := .idle, initStg := 0, fbuf := 0, bidx := 0, tmr := 0, rval := 0 }

/-- The input pins `n` cycles from now: this cycle's, then the listed ones, then free ones. They do not depend on
what the machine does. -/
def State.pinsAt (s : State) : Nat → Pins
  | 0 => s.pins
  | n + 1 => (s.upcoming[n]?).getD (Config.freePins (s.cycle + (n + 1)))

/-- The clock edge as the outside sees it: the next cycle's input pins come up. -/
def State.tick (s : State) : State :=
  { s with pins := s.pinsAt 1, upcoming := s.upcoming.tail, cycle := s.cycle + 1 }

/-- The clock edge after what a cycle answers. -/
def clocked : Answer → Answer
  | .next s => .next s.tick
  | .fault r => .fault r
  | .refused r => .refused r

/-- Put a word where the machine takes its next instruction from: a request on the request port of an idle
machine, a frame into `FBUF` of a machine that sends, from its first byte and to a sink that is ready. -/
def State.placeWord (s : State) : InsnWord → State
  | .req w =>
    { s with
      phase := .idle
      pins := { s.pins with
        rst := false, reqValid := true, reqOp := w.extractLsb' 16 4, reqArg := w.extractLsb' 0 16 } }
  | .frame f =>
    { s with phase := .send, fbuf := f, bidx := 0, pins := { s.pins with rst := false, txReady := true } }

end Sys2Proof.Machine
end

