-- ==== Sys2Proof/Machine/Boot.lean ====
section
/-! DEFINITION. INIT (42_controller_ops.md R140). The accept cycle begins the boot wait; the Reset frame, the two
waits, the volume frame and the online flag follow in the sequencer's phases (41_delivery.md R129, R130). -/

namespace Sys2Proof.Machine

/-- INIT (R140; 41_delivery.md R127). The argument is ignored. -/
def execInit (_arg : Half) (s : State) : Answer :=
  .next { s.startWait (nBoot s.params) .bootw with initStg := 1, rval := 0x00#8 }

end Sys2Proof.Machine
end

