-- ==== Sys2Proof/Machine/Frames.lean ====
section
/-! DEFINITION. The frames (40_encoder.md R96 to R104), each as the serializer treats it while it stands in `FBUF`
(41_delivery.md R124, R128): one cycle hands over its byte number `BIDX` if the sink is ready, and holds the byte
if not; after byte 9 the settling interval begins. -/

namespace Sys2Proof.Machine

/-- One cycle of delivering the frame with these fields. -/
def deliverByte (c : CommandCode) (h l : Byte) (ck : Half) (s : State) : Answer :=
  sendByte (packFrame c.code h l ck) s

/-- Play (R96). -/
def execFramePlay (h l : Byte) (ck : Half) (s : State) : Answer := deliverByte .play h l ck s

/-- Pause (R97). -/
def execFramePause (h l : Byte) (ck : Half) (s : State) : Answer := deliverByte .pause h l ck s

/-- Next (R98). -/
def execFrameNext (h l : Byte) (ck : Half) (s : State) : Answer := deliverByte .next h l ck s

/-- Prev (R99). -/
def execFramePrev (h l : Byte) (ck : Half) (s : State) : Answer := deliverByte .prev h l ck s

/-- SetVolume (R100). -/
def execFrameSetVolume (h l : Byte) (ck : Half) (s : State) : Answer := deliverByte .setVolume h l ck s

/-- PlayFromFolder (R101). -/
def execFramePlayFromFolder (h l : Byte) (ck : Half) (s : State) : Answer := deliverByte .playFromFolder h l ck s

/-- Stop (R102). -/
def execFrameStop (h l : Byte) (ck : Half) (s : State) : Answer := deliverByte .stop h l ck s

/-- Reset (R103). -/
def execFrameReset (h l : Byte) (ck : Half) (s : State) : Answer := deliverByte .reset h l ck s

/-- QueryStatus (R104): no operation puts it into `FBUF`, so no run reaches this; R128 does not look at the command
of the frame it hands over (log entry 8). -/
def execFrameQueryStatus (h l : Byte) (ck : Half) (s : State) : Answer := deliverByte .queryStatus h l ck s

end Sys2Proof.Machine
end

