-- ==== Sys2Proof/Machine/Playback.lean ====
section
/-! DEFINITION. The operations that send one frame and touch no register of the architecture: PLAYTRK, PLAYFLD,
PAUSE, RESUME, STOP, NEXT, PREV (42_controller_ops.md R144 to R150). -/

namespace Sys2Proof.Machine

/-- PLAYTRK (R144; 30_encoding.md R65): the Play frame, the track split high byte first. -/
def execPlaytrk (track : Half) (s : State) : Answer := .next (s.start .play (highByte track) (lowByte track))

/-- PLAYFLD (R145; 30_encoding.md R66): the PlayFromFolder frame. -/
def execPlayfld (folder track : Byte) (s : State) : Answer := .next (s.start .playFromFolder folder track)

/-- PAUSE (R146). The argument is ignored. -/
def execPause (_arg : Half) (s : State) : Answer := .next (s.start .pause 0x00#8 0x00#8)

/-- RESUME (R147): the Pause frame, on purpose. The argument is ignored. -/
def execResume (_arg : Half) (s : State) : Answer := .next (s.start .pause 0x00#8 0x00#8)

/-- STOP (R148). The argument is ignored. -/
def execStop (_arg : Half) (s : State) : Answer := .next (s.start .stop 0x00#8 0x00#8)

/-- NEXT (R149). The argument is ignored. -/
def execNext (_arg : Half) (s : State) : Answer := .next (s.start .next 0x00#8 0x00#8)

/-- PREV (R150). The argument is ignored. -/
def execPrev (_arg : Half) (s : State) : Answer := .next (s.start .prev 0x00#8 0x00#8)

end Sys2Proof.Machine
end

