-- ==== Sys2Proof/Machine/Flags.lean ====
section
/-! DEFINITION. The flags. `ONLINE` is the only status flag (10_state.md R25): no operation computes a condition
code, and the checksum leaves none (40_encoder.md R92 (e)). -/

namespace Sys2Proof.Machine

/-- What ISONLINE reads: `zext_8(ONLINE)` (42_controller_ops.md R141). -/
def State.onlineByte (s : State) : Byte := flagByte s.online

end Sys2Proof.Machine
end

