-- ==== Sys2Proof/Machine/Query.lean ====
section
/-! DEFINITION. The two operations that read the state: ISONLINE and GETVOL (42_controller_ops.md R141, R143). -/

namespace Sys2Proof.Machine

/-- ISONLINE (R141; 41_delivery.md R127): return the online flag; no frame, no wait. The argument is ignored. -/
def execIsonline (_arg : Half) (s : State) : Answer := .next (s.finish s.onlineByte)

/-- GETVOL (R143; 41_delivery.md R127): return the stored volume; no frame, no wait. The argument is ignored. -/
def execGetvol (_arg : Half) (s : State) : Answer := .next (s.finish (volumeByte s.vol))

end Sys2Proof.Machine
end

