-- ==== Sys2Proof/Machine/Reserved.lean ====
section
/-! DEFINITION. The reserved request opcodes `0xD`, `0xE`, `0xF`: accepted, no effect, return 0
(30_encoding.md R62, 42_controller_ops.md R153). -/

namespace Sys2Proof.Machine

/-- RESERVED_D (R153). The argument is ignored. -/
def execReservedD (_arg : Half) (s : State) : Answer := .next (s.finish 0x00#8)

/-- RESERVED_E (R153). The argument is ignored. -/
def execReservedE (_arg : Half) (s : State) : Answer := .next (s.finish 0x00#8)

/-- RESERVED_F (R153). The argument is ignored. -/
def execReservedF (_arg : Half) (s : State) : Answer := .next (s.finish 0x00#8)

end Sys2Proof.Machine
end

