-- ==== Sys2Proof/Machine/Volume.lean ====
section
/-! DEFINITION. The operations that write the volume: SETVOL, VOLUP, VOLDN (42_controller_ops.md R142, R151, R152). -/

namespace Sys2Proof.Machine

/-- Store a volume, already within the limits, and start its SetVolume frame (R142; 40_encoder.md R100). -/
def storeVolume (s : State) (v : BitVec 5) : Answer :=
  .next ((s.setVol v).start .setVolume 0x00#8 (volumeByte v))

/-- VOLUP or VOLDN at its limit: nothing happens, or the unchanged volume is sent again, as the parameter
`STEP_AT_LIMIT_SENDS` says (41_delivery.md R127; 90_conflicts.md C5). -/
def volumeAtLimit (s : State) : Answer :=
  if s.params.stepAtLimitSends then .next (s.start .setVolume 0x00#8 (volumeByte s.vol))
  else .next (s.finish 0x00#8)

/-- SETVOL (R142; 30_encoding.md R67): the operand is saturated into 0 to 30, stored and sent. -/
def execSetvol (v : Half) (s : State) : Answer := storeVolume s (clampVolume (signed16 v))

/-- VOLUP (R151). The argument is ignored. -/
def execVolup (_arg : Half) (s : State) : Answer :=
  if s.vol.toNat < 30 then storeVolume s (s.vol + 1) else volumeAtLimit s

/-- VOLDN (R152). The argument is ignored. -/
def execVoldn (_arg : Half) (s : State) : Answer :=
  if 0 < s.vol.toNat then storeVolume s (s.vol - 1) else volumeAtLimit s

end Sys2Proof.Machine
end

