-- ==== Sys2Proof/Machine/Dispatch.lean ====
section
/-! DEFINITION. The dispatch of an instruction to its meaning, one arm per constructor. -/

namespace Sys2Proof.Machine

def exec (i : Instr) (s : State) : Host.Outcome State Fault Refusal :=
  match i with
  | .init arg => Sys2Proof.Machine.execInit arg s
  | .isonline arg => Sys2Proof.Machine.execIsonline arg s
  | .setvol v => Sys2Proof.Machine.execSetvol v s
  | .getvol arg => Sys2Proof.Machine.execGetvol arg s
  | .playtrk track => Sys2Proof.Machine.execPlaytrk track s
  | .playfld folder track => Sys2Proof.Machine.execPlayfld folder track s
  | .pause arg => Sys2Proof.Machine.execPause arg s
  | .resume arg => Sys2Proof.Machine.execResume arg s
  | .stop arg => Sys2Proof.Machine.execStop arg s
  | .next arg => Sys2Proof.Machine.execNext arg s
  | .prev arg => Sys2Proof.Machine.execPrev arg s
  | .volup arg => Sys2Proof.Machine.execVolup arg s
  | .voldn arg => Sys2Proof.Machine.execVoldn arg s
  | .reservedD arg => Sys2Proof.Machine.execReservedD arg s
  | .reservedE arg => Sys2Proof.Machine.execReservedE arg s
  | .reservedF arg => Sys2Proof.Machine.execReservedF arg s
  | .framePlay h l ck => Sys2Proof.Machine.execFramePlay h l ck s
  | .framePause h l ck => Sys2Proof.Machine.execFramePause h l ck s
  | .frameNext h l ck => Sys2Proof.Machine.execFrameNext h l ck s
  | .framePrev h l ck => Sys2Proof.Machine.execFramePrev h l ck s
  | .frameSetVolume h l ck => Sys2Proof.Machine.execFrameSetVolume h l ck s
  | .framePlayFromFolder h l ck => Sys2Proof.Machine.execFramePlayFromFolder h l ck s
  | .frameStop h l ck => Sys2Proof.Machine.execFrameStop h l ck s
  | .frameReset h l ck => Sys2Proof.Machine.execFrameReset h l ck s
  | .frameQueryStatus h l ck => Sys2Proof.Machine.execFrameQueryStatus h l ck s

end Sys2Proof.Machine
end

