-- ==== Sys2Proof/Machine/Step.lean ====
section
/-! DEFINITION. One clock cycle of SGFE, and placing an instruction for the next cycle. -/

namespace Sys2Proof.Machine

/-- One clock cycle: `rst` wins over everything (60_exceptions.md R173); then the instruction at hand is executed,
the request accepted in this cycle or the frame being sent; else the sequencer's phase has its cycle. The clock
edge follows. -/
def step (s : State) : Host.Outcome State Fault Refusal :=
  if s.pins.rst then .next s.resetEdge.tick
  else match fetch s with
    | some i => clocked (exec i s)
    | none => clocked (sequencerCycle s)

/-- The state with the instruction whose table bits are `w` placed so that the next step runs it (log entry 14);
unchanged where no row has that many bits. -/
def State.withFetchWord (s : State) (nbits w : Nat) : State :=
  match tableWord nbits w with
  | some x => s.placeWord x
  | none => s

end Sys2Proof.Machine
end

