-- ==== Sys2Proof/Machine/Abstract.lean ====
section
/-! DEFINITION. The abstract level (00_scope.md R11, R12): each operation as a function of the two architectural
registers to their new values and a trace, transcribed from the pseudocode of 42_controller_ops.md R140 to R153,
and `DELIVER` (41_delivery.md R120). The clocked machine refines it (R132). -/

namespace Sys2Proof.Machine

/-- The architectural state: `(VOL, ONLINE)` (10_state.md R20, R21). -/
structure Arch where
  vol : BitVec 5
  online : Bool
deriving DecidableEq, Repr

/-- The architectural part of a state. -/
def State.arch (s : State) : Arch := ⟨s.vol, s.online⟩

/-- `DELIVER(f)` (41_delivery.md R120): the ten bytes in order, then 30 ms. -/
def deliver (f : BitVec 80) : List Event := (frameBytes f).map .tx ++ [.wait 30]

/-- The trace of an operation that delivers one frame and returns 0. -/
def oneFrame (c : CommandCode) (h l : Byte) : List Event := deliver (encodeFrame c.code h l) ++ [.ret 0x00#8]

/-- `VOL <- v; DELIVER(SetVolume v); Ret(0)`: the body of SETVOL once its operand is clamped (R142). -/
def performStore (a : Arch) (v : BitVec 5) : Arch × List Event :=
  (⟨v, a.online⟩, oneFrame .setVolume 0x00#8 (volumeByte v))

/-- VOLUP at 30, VOLDN at 0 (R151, R152). -/
def performAtLimit (p : Params) (a : Arch) : Arch × List Event :=
  if p.stepAtLimitSends then (a, oneFrame .setVolume 0x00#8 (volumeByte a.vol)) else (a, [.ret 0x00#8])

/-- INIT (R140), with `c = clamp(VOL, 0, 30)`. -/
def performInit (a : Arch) : Arch × List Event :=
  let c := clampVolume a.vol.toNat
  (⟨c, true⟩,
    [.wait 500] ++ deliver (encodeFrame 0x0C#8 0x00#8 0x00#8) ++ [.wait 1000] ++
      deliver (encodeFrame 0x06#8 0x00#8 (volumeByte c)) ++ [.ret 0x00#8])

/-- `exec(op, arg, VOL, ONLINE)` of 00_scope.md R11 for the operations, R140 to R153. A frame is no operation of
the host; what it stands for on the stream is its delivery (log entry 1). -/
def perform (p : Params) (i : Instr) (a : Arch) : Arch × List Event :=
  match i with
  | .init _ => performInit a
  | .isonline _ => (a, [.ret (flagByte a.online)])
  | .setvol v => performStore a (clampVolume (signed16 v))
  | .getvol _ => (a, [.ret (volumeByte a.vol)])
  | .playtrk t => (a, oneFrame .play (highByte t) (lowByte t))
  | .playfld d t => (a, oneFrame .playFromFolder d t)
  | .pause _ => (a, oneFrame .pause 0x00#8 0x00#8)
  | .resume _ => (a, oneFrame .pause 0x00#8 0x00#8)
  | .stop _ => (a, oneFrame .stop 0x00#8 0x00#8)
  | .next _ => (a, oneFrame .next 0x00#8 0x00#8)
  | .prev _ => (a, oneFrame .prev 0x00#8 0x00#8)
  | .volup _ => if a.vol.toNat < 30 then performStore a (a.vol + 1) else performAtLimit p a
  | .voldn _ => if 0 < a.vol.toNat then performStore a (a.vol - 1) else performAtLimit p a
  | .reservedD _ => (a, [.ret 0x00#8])
  | .reservedE _ => (a, [.ret 0x00#8])
  | .reservedF _ => (a, [.ret 0x00#8])
  | .framePlay h l ck => (a, deliver (packFrame 0x03#8 h l ck))
  | .framePause h l ck => (a, deliver (packFrame 0x0E#8 h l ck))
  | .frameNext h l ck => (a, deliver (packFrame 0x01#8 h l ck))
  | .framePrev h l ck => (a, deliver (packFrame 0x02#8 h l ck))
  | .frameSetVolume h l ck => (a, deliver (packFrame 0x06#8 h l ck))
  | .framePlayFromFolder h l ck => (a, deliver (packFrame 0x0F#8 h l ck))
  | .frameStop h l ck => (a, deliver (packFrame 0x16#8 h l ck))
  | .frameReset h l ck => (a, deliver (packFrame 0x0C#8 h l ck))
  | .frameQueryStatus h l ck => (a, deliver (packFrame 0x42#8 h l ck))

/-- A program: the operations one after the other, the state threading through, the traces concatenated (R11). -/
def performAll (p : Params) : List Instr → Arch → Arch × List Event
  | [], a => (a, [])
  | i :: is, a =>
    let first := perform p i a
    let rest := performAll p is first.1
    (rest.1, first.2 ++ rest.2)

end Sys2Proof.Machine
end

