-- ==== Sys2Proof/Machine/Assembly.lean ====
section
/-! DEFINITION. The one-line assembly of 30_encoding.md R73: a mnemonic of R61 and its operands, and the request
word it stands for. The text around them (commas, comments, decimal or hexadecimal) is not part of the hardware. -/

namespace Sys2Proof.Machine

/-- One assembly line (30_encoding.md R73): a mnemonic and its operands as integers. -/
structure AsmLine where
  mnemonic : String
  operands : List Int
deriving DecidableEq, Repr

/-- The opcode of a mnemonic that takes no operand (30_encoding.md R61). -/
def plainOpcode (mnemonic : String) : Option (BitVec 4) :=
  ([("INIT", 0x0#4), ("ISONLINE", 0x1#4), ("GETVOL", 0x3#4), ("PAUSE", 0x6#4), ("RESUME", 0x7#4), ("STOP", 0x8#4),
    ("NEXT", 0x9#4), ("PREV", 0xA#4), ("VOLUP", 0xB#4), ("VOLDN", 0xC#4)].find? fun r => r.1 == mnemonic).map Prod.snd

/-- The request word of a line (R73); none for a line that is none of R73's forms, or with an operand out of its
range. -/
def assemble (line : AsmLine) : Option (BitVec 20) :=
  match line.operands with
  | [] => (plainOpcode line.mnemonic).map fun op => reqWord op 0#16
  | [v] =>
    if line.mnemonic = "SETVOL" then
      if -32768 ≤ v ∧ v ≤ 32767 then some (reqWord 0x2#4 (BitVec.ofInt 16 v)) else none
    else if line.mnemonic = "PLAYTRK" then
      if 0 ≤ v ∧ v ≤ 65535 then some (reqWord 0x4#4 (BitVec.ofInt 16 v)) else none
    else none
  | [d, t] =>
    if line.mnemonic = "PLAYFLD" then
      if 0 ≤ d ∧ d ≤ 255 ∧ 0 ≤ t ∧ t ≤ 255 then some (reqWord 0x5#4 (BitVec.ofInt 16 (256 * d + t))) else none
    else none
  | _ :: _ :: _ :: _ => none

end Sys2Proof.Machine
end

