-- ==== Sys2Proof/Machine/Run.lean ====
section
/-! DEFINITION. Several clock cycles of the machine, for what the spec says of spans of cycles
(41_delivery.md R132, R135), and the run of a program from `rst` to its end (00_scope.md R14). -/

namespace Sys2Proof.Machine

/-- `n` cycles from a state, stopping at the first that answers no next state. -/
def runCycles : Nat → State → Answer
  | 0, s => .next s
  | n + 1, s =>
    match step s with
    | .next t => runCycles n t
    | .fault r => .fault r
    | .refused r => .refused r

/-- The state after `n` cycles that leave every register as it is: only the input pins and the clock move. -/
def State.ticks (s : State) (n : Nat) : State :=
  { s with pins := s.pinsAt n, upcoming := s.upcoming.drop n, cycle := s.cycle + n }

/-- `rst` is 0 in the next `n` cycles, this one among them. -/
def NoReset (s : State) (n : Nat) : Prop := ∀ k, k < n → (s.pinsAt k).rst = false

/-- In how many of the cycles `a`, `a + 1`, ..., `a + n - 1` from now the sink is ready. -/
def readyCount (s : State) (a n : Nat) : Nat := (List.range n).countP fun k => (s.pinsAt (a + k)).txReady

/-- The sink, offered a byte from cycle `a` on, takes the tenth in the last of `n` cycles. -/
def TakesTen (s : State) (a n : Nat) : Prop :=
  0 < n ∧ readyCount s a n = 10 ∧ (s.pinsAt (a + n - 1)).txReady = true

/-! ## The run of a program (00_scope.md R14) -/

/-- A request is accepted in this cycle (41_delivery.md R125). -/
def State.accepts (s : State) : Bool := s.pins.reqValid && s.reqReady

/-- The operation whose request is on the pins. -/
def State.request (s : State) : Instr := decodeReq (Pins.word s.pins)

/-- A cycle of the kind that can end a run: `IDLE`, no request presented, no `rst` (R14). It is the end of a run only
as the first such cycle after the program's last `Ret`; `serve` counts to that one. -/
abbrev State.final (s : State) : Prop := s.phase = .idle ∧ s.pins.reqValid = false ∧ s.pins.rst = false

/-- What of the program `todo` is left to issue after this cycle. None, if the cycle has no place in the run: under
`rst`, where another request is accepted than the program's next, and where the run is already over. -/
def State.issue (s : State) (todo : List Instr) : Option (List Instr) :=
  if s.pins.rst then none
  else if s.accepts then
    match todo with
    | [] => none
    | i :: rest => if s.request = i then some rest else none
  else if s.phase = .idle ∧ todo = [] then none
  else some todo

/-- From the first cycle after `rst`: the state in which the run of `todo` is over, if it is over after exactly `n`
cycles. An operation is accepted in `IDLE` only, so after the `Ret` of the one before it. -/
def serve : Nat → List Instr → State → Option State
  | 0, todo, s => if todo = [] ∧ s.final then some s else none
  | n + 1, todo, s =>
    match s.issue todo, step s with
    | some rest, .next t => serve n rest t
    | some _, .fault _ => none
    | some _, .refused _ => none
    | none, _ => none

/-- `rst` is 1 for `r` cycles, at least one; then `program` is issued, operation after operation; `n` cycles after the
last cycle of `rst` the run is over, in `t`. -/
def RunEnds (s : State) (program : List Instr) (r n : Nat) (t : State) : Prop :=
  0 < r ∧ (∀ k, k < r → (s.pinsAt k).rst = true) ∧
    ∃ u, runCycles r s = .next u ∧ serve n program u = some t

/-- In the next `n` cycles the host presents a request only where SGFE is in `IDLE`: after the `Ret` of the operation
before (R14). -/
def HostWaits (s : State) (n : Nat) : Prop :=
  ∀ k u, k < n → runCycles k s = .next u → u.pins.rst = false → u.phase ≠ .idle → u.pins.reqValid = false

/-- The run of R14, with a host that waits. A host that presents the next request early, as 00_scope.md R15 lets it,
makes a `RunEnds` that is no `Run`; SGFE does not look at the pins then (log entry 18). -/
structure Run (s : State) (program : List Instr) (r n : Nat) (t : State) : Prop where
  ends : RunEnds s program r n t
  host : HostWaits s (r + n)

end Sys2Proof.Machine
end

