-- ==== Sys2Proof/WellFormed.lean ====
section
/-! DEFINITION. Which instructions are well formed. Every request is (60_exceptions.md R170: all 2^20 request
words are accepted). A frame is when it obeys the checksum law (30_encoding.md R71); its constant bytes are not
part of the syntax. A frame SGFE can emit obeys R68 besides. -/

namespace Sys2Proof

/-- The sum of R71, over bytes 1 to 8 of a frame with these fields, is 0 modulo 65536. -/
def checksumLaw (command paramHigh paramLow : Byte) (ck : Half) : Bool :=
  (0xFF + 0x06 + command.toNat + 0x00 + paramHigh.toNat + paramLow.toNat + ck.toNat) % 65536 == 0

/-- Well-formedness (30_encoding.md R71, first clause). The command bytes are those of 40_encoder.md R95. -/
def Instr.wellFormed : Instr → Bool
  | .init _ | .isonline _ | .setvol _ | .getvol _ | .playtrk _ | .playfld _ _ | .pause _ | .resume _
  | .stop _ | .next _ | .prev _ | .volup _ | .voldn _ | .reservedD _ | .reservedE _ | .reservedF _ => true
  | .framePlay h l ck => checksumLaw 0x03#8 h l ck
  | .framePause h l ck => checksumLaw 0x0E#8 h l ck
  | .frameNext h l ck => checksumLaw 0x01#8 h l ck
  | .framePrev h l ck => checksumLaw 0x02#8 h l ck
  | .frameSetVolume h l ck => checksumLaw 0x06#8 h l ck
  | .framePlayFromFolder h l ck => checksumLaw 0x0F#8 h l ck
  | .frameStop h l ck => checksumLaw 0x16#8 h l ck
  | .frameReset h l ck => checksumLaw 0x0C#8 h l ck
  | .frameQueryStatus h l ck => checksumLaw 0x42#8 h l ck

/-- The parameter bytes a command is sent with (30_encoding.md R68): any for Play and PlayFromFolder, `00` and a
volume for SetVolume, `00 00` for the five without a parameter; QueryStatus is never built. -/
def parameterRule (c : CommandCode) (paramHigh paramLow : Byte) : Bool :=
  match c with
  | .play | .playFromFolder => true
  | .setVolume => paramHigh == 0#8 && decide (paramLow.toNat ≤ 30)
  | .pause | .next | .prev | .stop | .reset => paramHigh == 0#8 && paramLow == 0#8
  | .queryStatus => false

/-- A frame SGFE can emit (30_encoding.md R71, second clause). No request is one. -/
def Instr.emittable (i : Instr) : Bool :=
  match i.frameFields with
  | some x => i.wellFormed && parameterRule x.command x.paramHigh x.paramLow
  | none => false

end Sys2Proof
end

