-- ==== Sys2Proof/Safety.lean ====
section
/-! DEFINITION. The predicates that the statements use: the invariants of every reachable state (10_state.md R29),
the return of an operation, and frames on the stream (20_memory.md R45). -/

namespace Sys2Proof.Machine

/-- A wait phase's length in cycles (10_state.md R29 (e)); none for the other phases. -/
def waitLength (p : Params) : Phase → Option Nat
  | .bootw => some (nBoot p)
  | .settle => some (nSettle p)
  | .rstw => some (nReset p)
  | .idle | .send | .done | .unused6 | .unused7 => none

/-- A wait phase's length in milliseconds (00_scope.md R6); none for the other phases. -/
def waitMs : Phase → Option Nat
  | .bootw => some 500
  | .settle => some 30
  | .rstw => some 1000
  | .idle | .send | .done | .unused6 | .unused7 => none

/-- The phases in which `INITSTG` may be other than 0 (10_state.md R29 (d)). -/
def initPhase : Phase → Bool
  | .bootw | .send | .settle | .rstw => true
  | .idle | .done | .unused6 | .unused7 => false

/-- The invariants (a) to (f) of 10_state.md R29, and that `TMR` fits its `TMRW` bits (R26). -/
structure State.Inv (s : State) : Prop where
  volume : s.vol.toNat ≤ 30
  phase : s.phase ≠ .unused6 ∧ s.phase ≠ .unused7
  byteIndex : s.bidx.toNat ≤ 9
  initStage : s.initStg.toNat ≤ 2
  initStagePhase : s.initStg ≠ 0#2 → initPhase s.phase = true
  timer : ∀ n, waitLength s.params s.phase = some n → 1 ≤ s.tmr ∧ s.tmr ≤ n
  timerWidth : s.tmr < 2 ^ tmrw s.params
  frame : s.phase = .send → ∃ c ∈ issuedCodes, ∃ h l, s.fbuf = encodeFrame c h l

/-- What stands in `FBUF` during `SEND` is a frame SGFE can emit (30_encoding.md R71, 40_encoder.md R69, R104): the
invariant that the volume, which a later frame may carry, is legal goes with it. -/
structure State.EmitInv (s : State) : Prop where
  volume : s.vol.toNat ≤ 30
  frame : s.phase = .send → ∃ i, decodeFrame s.fbuf = .ok i ∧ i.emittable = true

/-- A byte is transferred in this cycle (41_delivery.md R124). -/
def State.transfers (s : State) : Bool := s.txValid && s.pins.txReady

/-- The operation returns to `IDLE` for the first time after `n` cycles. -/
def ReturnsAfter (s : State) (n : Nat) (t : State) : Prop :=
  0 < n ∧ runCycles n s = .next t ∧ t.phase = .idle ∧
    ∀ k u, 0 < k → k < n → runCycles k s = .next u → u.phase ≠ .idle

/-- The bytes after the first `base` of the stream are whole frames of this protocol, and then the first bytes of
the frame on offer if one is being sent (20_memory.md R45). `base` is where the stream stood at the last reset. -/
def State.Framed (base : Nat) (s : State) : Prop :=
  ∃ fs : List (Byte × Byte × Byte),
    s.stream.drop base =
        (fs.map fun f => frameBytes (encodeFrame f.1 f.2.1 f.2.2)).flatten ++
          (if s.phase = .send then (frameBytes s.fbuf).take s.bidx.toNat else []) ∧
      base ≤ s.stream.length

/-- The ten bytes of a frame as numbers, the checksum in the third form of 40_encoder.md R91. -/
def frameNumbers (c h l : Nat) : List Nat :=
  [0x7E, 0xFF, 0x06, c, 0x00, h, l, (0xFEFB - (c + h + l)) / 256, (0xFEFB - (c + h + l)) % 256, 0xEF]

/-- An accept cycle has stored the volume `v` and started the frame with these numbers (41_delivery.md R127,
`start`); everything else is as it was. -/
def Started (s t : State) (v : BitVec 5) (c h l : Nat) : Prop :=
  t = { s with vol := v, fbuf := t.fbuf, bidx := 0, initStg := 0, rval := 0, phase := .send } ∧
    (frameBytes t.fbuf).map BitVec.toNat = frameNumbers c h l

/-- Apply a change to the next state an answer gives. -/
def onNext (f : State → State) : Answer → Answer
  | .next t => .next (f t)
  | .fault r => .fault r
  | .refused r => .refused r

/-- A cycle answers the next state `u`, whatever the inputs of the cycle after it are (log entry 2). -/
def Becomes (a : Answer) (u : State) : Prop :=
  ∃ t, a = .next t ∧ t = { u with pins := t.pins, upcoming := t.upcoming, cycle := t.cycle }

/-- A cycle answers a next state with the registers of `u`, whatever the trace and the inputs are. -/
def MovesTo (a : Answer) (u : State) : Prop :=
  ∃ t, a = .next t ∧ t = { u with trace := t.trace, pins := t.pins, upcoming := t.upcoming, cycle := t.cycle }

/-- Two states that agree on everything but the request pins of this cycle. -/
def SameButRequestPins (s t : State) : Prop :=
  ∃ v op arg, t = { s with pins := { s.pins with reqValid := v, reqOp := op, reqArg := arg } }

end Sys2Proof.Machine
end

