-- ==== Sys2Proof/Certificates/Slice0/Obligations.lean ====
section
/-! DEFINITION. The statements about SGFE that the provers settle, each from rules of spec/. -/

open Sys2Proof Sys2Proof.Machine

/-! ## Encodings -/

/-- A few words of 95_test_vectors.md (V8, V2) and the instructions they stand for. -/
def Obligations.SampleWordsDecode : Prop :=
  decode (.req 0x20014#20) = .ok (.setvol 20#16) ∧
  decode (.req 0x2FFFB#20) = .ok (.setvol (BitVec.ofInt 16 (-5))) ∧
  decode (.req 0x0BEEF#20) = .ok (.init 0xBEEF#16) ∧
  decode (.req 0x40100#20) = .ok (.playtrk 256#16) ∧
  decode (.req 0x5FF00#20) = .ok (.playfld 255#8 0#8) ∧
  decode (.req 0xB0000#20) = .ok (.volup 0#16) ∧
  decode (.req 0xF1234#20) = .ok (.reservedF 0x1234#16) ∧
  decode (.frame 0x7EFF0606000014FEE1EF#80) = .ok (.frameSetVolume 0#8 20#8 0xFEE1#16) ∧
  decode (.frame 0x7EFF060F000203FEE7EF#80) = .ok (.framePlayFromFolder 2#8 3#8 0xFEE7#16) ∧
  decode (.frame 0x7EFF0607000000FEF4EF#80) = .error (.undefinedCommand 7#8)

/-- No bit of an encoding is dropped: decoding the word of any instruction gives it back, every operand at every
value (30_encoding.md R60, R61, R64; 40_encoder.md R95). -/
def Obligations.DecodeOfEncode : Prop := ∀ i : Instr, decode (encode i) = .ok i

/-- Each word has one meaning: the word of what a word decodes to is that word. -/
def Obligations.EncodeOfDecode : Prop := ∀ (w : InsnWord) (i : Instr), decode w = .ok i → encode i = w

/-- The assembly lines give the request words of their operations, each operand form at every value of its range
(30_encoding.md R73). -/
def Obligations.AssembledLinesDecodeToTheirOperations : Prop :=
  (∀ v : Int, -32768 ≤ v → v ≤ 32767 → ∃ w a, assemble ⟨"SETVOL", [v]⟩ = some w ∧
    decodeReq w = .setvol a ∧ a.toInt = v) ∧
  (∀ v : Int, 0 ≤ v → v ≤ 65535 → ∃ w a, assemble ⟨"PLAYTRK", [v]⟩ = some w ∧
    decodeReq w = .playtrk a ∧ (a.toNat : Int) = v) ∧
  (∀ d t : Int, 0 ≤ d → d ≤ 255 → 0 ≤ t → t ≤ 255 → ∃ w f k, assemble ⟨"PLAYFLD", [d, t]⟩ = some w ∧
    decodeReq w = .playfld f k ∧ (f.toNat : Int) = d ∧ (k.toNat : Int) = t) ∧
  ∀ r ∈ [("INIT", Instr.init 0), ("ISONLINE", .isonline 0), ("GETVOL", .getvol 0), ("PAUSE", .pause 0),
      ("RESUME", .resume 0), ("STOP", .stop 0), ("NEXT", .next 0), ("PREV", .prev 0), ("VOLUP", .volup 0),
      ("VOLDN", .voldn 0)], (assemble ⟨r.1, []⟩).map decodeReq = some r.2

/-- A value is one of the nine frames exactly when its fixed bits match the mask and pattern of 30_encoding.md R64
(90_conflicts.md C6) and its command byte is one of the nine of 40_encoder.md R95. -/
def Obligations.FrameDecodesIffFixedBitsMatch : Prop :=
  ∀ f : BitVec 80, (∃ i, decodeFrame f = .ok i) ↔
    f &&& 0xFFFFFF00FF00000000FF#80 = 0x7EFF06000000000000EF#80 ∧
    frameByte f 3 ∈ [0x03#8, 0x0E#8, 0x01#8, 0x02#8, 0x06#8, 0x0F#8, 0x16#8, 0x0C#8, 0x42#8]

/-- A frame instruction is well formed exactly when the ten bytes of its word are a well-formed frame of the
protocol (30_encoding.md R71). -/
def Obligations.WellFormedFrameIffValidBytes : Prop :=
  ∀ (i : Instr) (f : BitVec 80), encode i = .frame f → i.wellFormed = validFrame (frameBytes f)

/-- The validity predicate of a receiving end accepts exactly the byte sequences that `ENCODE` produces
(30_encoding.md R71, 40_encoder.md R90). -/
def Obligations.ValidFrameIffEncoded : Prop :=
  ∀ bs : List Byte, validFrame bs = true ↔ ∃ c h l : Byte, bs = frameBytes (encodeFrame c h l)

/-! ## The encoder -/

/-- The round-trip law of the checksum, in both of its forms (40_encoder.md R93). -/
def Obligations.ChecksumRoundTrip : Prop :=
  ∀ c h l : Byte,
    let f := fun k => (frameByte (encodeFrame c h l) k).toNat
    (f 1 + f 2 + f 3 + f 4 + f 5 + f 6 + 256 * f 7 + f 8) % 65536 = 0 ∧
    (-((f 1 + f 2 + f 3 + f 4 + f 5 + f 6 : Nat) : Int)) % 65536 = ((256 * f 7 + f 8 : Nat) : Int)

/-- `ENCODE` gives the ten bytes of 40_encoder.md R90, for every byte value of its three arguments. -/
def Obligations.EncodeGivesTheTenBytes : Prop :=
  ∀ c h l : Byte,
    let sum := 0xFF + 0x06 + c.toNat + 0x00 + h.toNat + l.toNat
    let ck := (0x10000 - sum) % 0x10000
    (frameBytes (encodeFrame c h l)).map BitVec.toNat =
      [0x7E, 0xFF, 0x06, c.toNat, 0x00, h.toNat, l.toNat, ck / 256, ck % 256, 0xEF]

/-- The three equal forms of the checksum (40_encoder.md R91), over the sum `s` of bytes 1 to 6. -/
def Obligations.ThreeFormsOfTheChecksum : Prop :=
  ∀ c h l : Byte,
    let s : Nat := 0xFF + 0x06 + c.toNat + 0x00 + h.toNat + l.toNat
    ((checksum c h l).toNat : Int) = (-(s : Int)) % 65536 ∧
    (checksum c h l).toNat = ((s ^^^ 0xFFFF) + 1) % 65536 ∧
    (checksum c h l).toNat + (c.toNat + h.toNat + l.toNat) = 0xFEFB

/-- The sum never wraps, and the checksum's high byte is one of `FB` to `FE` (40_encoder.md R92 (b), (c)). -/
def Obligations.ChecksumStaysInItsRange : Prop :=
  ∀ c h l : Byte,
    0x0105 ≤ frameSum c h l ∧ frameSum c h l ≤ 0x0402 ∧
    0xFBFE ≤ (checksum c h l).toNat ∧ (checksum c h l).toNat ≤ 0xFEFB ∧
    highByte (checksum c h l) ∈ [0xFB#8, 0xFC#8, 0xFD#8, 0xFE#8]

/-- Two frames are equal only if their command and parameter bytes are (40_encoder.md R94). -/
def Obligations.EncodeIsInjective : Prop :=
  ∀ c h l c' h' l' : Byte, encodeFrame c h l = encodeFrame c' h' l' → c = c' ∧ h = h' ∧ l = l'

/-! ## The accept cycle of each request: its result, and everything else as it was -/

/-- INIT begins the boot wait (41_delivery.md R127, 42_controller_ops.md R140). -/
def Obligations.InitBeginsTheBootWait : Prop :=
  ∀ (a : Half) (s : State),
    exec (.init a) s =
      .next { s with initStg := 1, tmr := 500 * (s.params.cyclesPerMs : Nat), rval := 0, phase := .bootw }

/-- ISONLINE and GETVOL return their register and change nothing else (41_delivery.md R127, 30_encoding.md R75). -/
def Obligations.QueriesReturnTheirRegister : Prop :=
  ∀ (a : Half) (s : State),
    exec (.isonline a) s = .next { s with rval := if s.online then 1 else 0, phase := .done } ∧
    ∃ v : Byte, v.toNat = s.vol.toNat ∧ exec (.getvol a) s = .next { s with rval := v, phase := .done }

/-- SETVOL's operand is the request's argument as a signed integer, saturated into 0 to 30; the accept cycle stores
the saturated volume and starts the frame that carries it, high byte 0 (30_encoding.md R67). -/
def Obligations.SetvolStoresAndSendsTheClampedVolume : Prop :=
  ∀ (v : Half) (s : State), decode (.req (reqWord 0x2 v)) = .ok (.setvol v) ∧ ∃ (c : BitVec 5) (t : State),
    (c.toNat : Int) = (if v.toInt < 0 then 0 else if v.toInt > 30 then 30 else v.toInt) ∧
    exec (.setvol v) s = .next t ∧ Started s t c 0x06 0 c.toNat

/-- PLAYTRK's track is the request's argument, split high byte first; PLAYFLD's folder and track are the argument's
high and low byte, sent as they are; no value is rejected or altered (30_encoding.md R65, R66). -/
def Obligations.PlayRequestsStartTheirFrames : Prop :=
  (∀ (track : Half) (s : State), decode (.req (reqWord 0x4 track)) = .ok (.playtrk track) ∧
    ∃ t, exec (.playtrk track) s = .next t ∧ Started s t s.vol 0x03 (track.toNat / 256) (track.toNat % 256)) ∧
  (∀ (folder track : Byte) (s : State), decode (.req (reqWord 0x5 (folder ++ track))) = .ok (.playfld folder track) ∧
    ∃ t, exec (.playfld folder track) s = .next t ∧ Started s t s.vol 0x0F folder.toNat track.toNat)

/-- PAUSE, RESUME, STOP, NEXT and PREV start their constant frames, RESUME the Pause frame
(42_controller_ops.md R146 to R150). -/
def Obligations.PlainRequestsStartTheirFrames : Prop :=
  ∀ (a : Half) (s : State),
    (∃ t, exec (.pause a) s = .next t ∧ Started s t s.vol 0x0E 0 0) ∧
    (∃ t, exec (.resume a) s = .next t ∧ Started s t s.vol 0x0E 0 0) ∧
    (∃ t, exec (.stop a) s = .next t ∧ Started s t s.vol 0x16 0 0) ∧
    (∃ t, exec (.next a) s = .next t ∧ Started s t s.vol 0x01 0 0) ∧
    (∃ t, exec (.prev a) s = .next t ∧ Started s t s.vol 0x02 0 0)

/-- VOLUP below 30 stores and sends one more; at the limit it sends nothing, or the same volume again when
`STEP_AT_LIMIT_SENDS` (42_controller_ops.md R151, 41_delivery.md R127). -/
def Obligations.VolupStepsUpOrStaysAtItsLimit : Prop :=
  ∀ (a : Half) (s : State),
    (s.vol.toNat < 30 → ∃ t, exec (.volup a) s = .next t ∧ t.vol.toNat = s.vol.toNat + 1 ∧
      Started s t t.vol 0x06 0 (s.vol.toNat + 1)) ∧
    (30 ≤ s.vol.toNat → s.params.stepAtLimitSends = true → ∃ t, exec (.volup a) s = .next t ∧
      Started s t s.vol 0x06 0 s.vol.toNat) ∧
    (30 ≤ s.vol.toNat → s.params.stepAtLimitSends = false →
      exec (.volup a) s = .next { s with rval := 0, phase := .done })

/-- VOLDN above 0 stores and sends one less; at the limit as VOLUP (42_controller_ops.md R152). -/
def Obligations.VoldnStepsDownOrStaysAtItsLimit : Prop :=
  ∀ (a : Half) (s : State),
    (0 < s.vol.toNat → ∃ t, exec (.voldn a) s = .next t ∧ t.vol.toNat = s.vol.toNat - 1 ∧
      Started s t t.vol 0x06 0 (s.vol.toNat - 1)) ∧
    (s.vol.toNat = 0 → s.params.stepAtLimitSends = true → ∃ t, exec (.voldn a) s = .next t ∧
      Started s t s.vol 0x06 0 0) ∧
    (s.vol.toNat = 0 → s.params.stepAtLimitSends = false →
      exec (.voldn a) s = .next { s with rval := 0, phase := .done })

/-- The reserved opcodes return 0 and change nothing else (30_encoding.md R62, 42_controller_ops.md R153). -/
def Obligations.ReservedOpcodesReturnZero : Prop :=
  ∀ (a : Half) (s : State),
    exec (.reservedD a) s = .next { s with rval := 0, phase := .done } ∧
    exec (.reservedE a) s = .next { s with rval := 0, phase := .done } ∧
    exec (.reservedF a) s = .next { s with rval := 0, phase := .done }

/-- The accept cycle loads exactly what 41_delivery.md R127 lists, opcode by opcode; without a request nothing
changes. -/
def Obligations.IdleCycleLoadsWhatTheRequestSays : Prop :=
  ∀ s : State, s.phase = .idle → s.pins.rst = false →
    let a := s.pins.reqArg
    let v := a.toInt
    let c : BitVec 5 := if v < 0 then 0 else if v > 30 then 30 else BitVec.ofInt 5 v
    let start := fun (u : State) (c h l : Byte) =>
      { u with fbuf := encodeFrame c h l, bidx := 0, initStg := 0, rval := 0, phase := .send }
    let finish := fun (v : Byte) => { s with rval := v, phase := Phase.done }
    let limit := if s.params.stepAtLimitSends then start s 0x06 0x00 (s.vol.setWidth 8) else finish 0x00
    (s.pins.reqValid = false → Becomes (step s) s) ∧
    (s.pins.reqValid = true → Becomes (step s)
      (match s.pins.reqOp.toNat with
      | 0x0 => { s with initStg := 1, tmr := nBoot s.params, rval := 0, phase := .bootw }
      | 0x1 => finish (if s.online then 1 else 0)
      | 0x2 => start { s with vol := c } 0x06 0x00 (c.setWidth 8)
      | 0x3 => finish (s.vol.setWidth 8)
      | 0x4 => start s 0x03 (a.extractLsb' 8 8) (a.extractLsb' 0 8)
      | 0x5 => start s 0x0F (a.extractLsb' 8 8) (a.extractLsb' 0 8)
      | 0x6 => start s 0x0E 0x00 0x00
      | 0x7 => start s 0x0E 0x00 0x00
      | 0x8 => start s 0x16 0x00 0x00
      | 0x9 => start s 0x01 0x00 0x00
      | 0xA => start s 0x02 0x00 0x00
      | 0xB => if s.vol.toNat < 30 then start { s with vol := s.vol + 1 } 0x06 0x00 ((s.vol + 1).setWidth 8) else limit
      | 0xC => if 0 < s.vol.toNat then start { s with vol := s.vol - 1 } 0x06 0x00 ((s.vol - 1).setWidth 8) else limit
      | _ => finish 0x00))

/-- RESUME is PAUSE, in every state and whatever the ignored arguments hold, at both levels
(42_controller_ops.md R147). -/
def Obligations.ResumeEqualsPause : Prop :=
  ∀ (a b : Half) (s : State) (p : Params) (x : Arch),
    exec (.resume a) s = exec (.pause b) s ∧ perform p (.resume a) x = perform p (.pause b) x

/-- The argument of every operation without an operand is ignored (30_encoding.md R63, first sentence). -/
def Obligations.UnusedArgumentsAreIgnored : Prop :=
  ∀ (a b : Half) (s : State),
    exec (.init a) s = exec (.init b) s ∧ exec (.isonline a) s = exec (.isonline b) s ∧
    exec (.getvol a) s = exec (.getvol b) s ∧ exec (.pause a) s = exec (.pause b) s ∧
    exec (.resume a) s = exec (.resume b) s ∧ exec (.stop a) s = exec (.stop b) s ∧
    exec (.next a) s = exec (.next b) s ∧ exec (.prev a) s = exec (.prev b) s ∧
    exec (.volup a) s = exec (.volup b) s ∧ exec (.voldn a) s = exec (.voldn b) s ∧
    exec (.reservedD a) s = exec (.reservedD b) s ∧ exec (.reservedE a) s = exec (.reservedE b) s ∧
    exec (.reservedF a) s = exec (.reservedF b) s

/-- What no accept cycle changes: the online flag, the stream and the trace, the parameters and the inputs; the
volume except by SETVOL, VOLUP and VOLDN; the timer except by INIT; the frame buffer and its index unless a frame
is started (42_controller_ops.md R154, 10_state.md R20, R21, R26). -/
def Obligations.RequestsLeaveTheRestUnchanged : Prop :=
  ∀ (i : Instr) (s t : State), i.isRequest = true → exec i s = .next t →
    t.online = s.online ∧ t.trace = s.trace ∧ t.params = s.params ∧ t.pins = s.pins ∧
    t.upcoming = s.upcoming ∧ t.cycle = s.cycle ∧
    ((∀ a, i ≠ .setvol a ∧ i ≠ .volup a ∧ i ≠ .voldn a) → t.vol = s.vol) ∧
    ((∀ a, i ≠ .init a) → t.tmr = s.tmr) ∧
    (t.phase ≠ .send → t.fbuf = s.fbuf ∧ t.bidx = s.bidx)

/-! ## The frames in `SEND` -/

/-- Every frame (Play, Pause, Next, Prev, SetVolume, PlayFromFolder, Stop, Reset and QueryStatus alike) hands over
its byte number `BIDX` to a ready sink, moves on or, after byte 9, begins the settling interval; a sink that is not
ready changes nothing (41_delivery.md R124, R128; 30_encoding.md R64). -/
def Obligations.FramesHandOverTheirBytes : Prop :=
  ∀ (i : Instr) (x : FrameFields) (s : State) (b : Byte), i.frameFields = some x →
    [0x7E#8, 0xFF#8, 0x06#8, x.command.code, 0x00#8, x.paramHigh, x.paramLow, x.checksum.extractLsb' 8 8,
      x.checksum.extractLsb' 0 8, 0xEF#8][s.bidx.toNat]? = some b →
    exec i s =
      if s.pins.txReady = false then .next s
      else if s.bidx.toNat < 9 then .next { s with trace := s.trace ++ [.tx b], bidx := s.bidx + 1 }
      else .next { s with
        trace := s.trace ++ [.tx b], tmr := 30 * (s.params.cyclesPerMs : Nat), phase := .settle }

/-- What no frame changes: the architectural registers, the frame itself, `INITSTG`, `RVAL`, the parameters and
the inputs; the stream keeps its bytes and grows by at most the one handed over (10_state.md R28, 20_memory.md R46). -/
def Obligations.FramesLeaveTheRestUnchanged : Prop :=
  ∀ (i : Instr) (s t : State), i.isRequest = false → exec i s = .next t →
    t.vol = s.vol ∧ t.online = s.online ∧ t.fbuf = s.fbuf ∧ t.initStg = s.initStg ∧ t.rval = s.rval ∧
    t.params = s.params ∧ t.pins = s.pins ∧ t.upcoming = s.upcoming ∧ t.cycle = s.cycle ∧
    t.stream.length = s.stream.length + (if s.pins.txReady then 1 else 0) ∧
    ∀ k, k < s.stream.length → t.stream[k]? = s.stream[k]?

/-! ## The step -/

/-- A step executes the instruction at hand, the request that is accepted or the frame that is being sent, and
then the clock edge brings up the next input pins and changes nothing else (41_delivery.md R125, R128). -/
def Obligations.StepRunsTheDecodedInstruction : Prop :=
  (∀ s : State, s.phase = .idle → s.pins.reqValid = true → s.pins.rst = false →
    ∀ i, decode (.req (reqWord s.pins.reqOp s.pins.reqArg)) = .ok i → step s = clocked (exec i s)) ∧
  (∀ s : State, s.phase = .send → s.pins.rst = false →
    ∀ i, decode (.frame s.fbuf) = .ok i → step s = clocked (exec i s)) ∧
  (∀ t : State, clocked (.next t) =
    .next { t with pins := t.pinsAt 1, upcoming := t.upcoming.tail, cycle := t.cycle + 1 })

/-- `SEND` (41_delivery.md R128): the byte on offer, the stall, the next byte, the last byte, whatever `FBUF`
holds; and with a sink that is always ready exactly ten cycles. -/
def Obligations.SendCycleOffersOneByte : Prop :=
  (∀ s : State, s.phase = .send → s.pins.rst = false → s.bidx.toNat ≤ 9 →
    s.txValid = true ∧ s.txData = some (frameByte s.fbuf s.bidx.toNat) ∧
    (s.pins.txReady = false → Becomes (step s) s) ∧
    (s.pins.txReady = true → s.bidx.toNat < 9 → Becomes (step s)
      { s with trace := s.trace ++ [.tx (frameByte s.fbuf s.bidx.toNat)], bidx := s.bidx + 1 }) ∧
    (s.pins.txReady = true → s.bidx.toNat = 9 → Becomes (step s)
      { s with trace := s.trace ++ [.tx (frameByte s.fbuf 9)], tmr := nSettle s.params, phase := .settle })) ∧
  (∀ s : State, s.phase = .send → s.bidx = 0 → NoReset s 10 → (∀ k, k < 10 → (s.pinsAt k).txReady = true) →
    (∀ k, k < 10 → ∃ u, runCycles k s = .next u ∧ u.phase = .send) ∧
    ∃ t, runCycles 10 s = .next t ∧ t.phase = .settle)

/-- `SETTLE` (41_delivery.md R129): the interval counts down, and its end goes where `INITSTG` says. -/
def Obligations.SettleCycleEndsByInitStage : Prop :=
  ∀ s : State, s.phase = .settle → s.pins.rst = false →
    (1 < s.tmr → MovesTo (step s) { s with tmr := s.tmr - 1 }) ∧
    (s.tmr = 1 → s.initStg = 0#2 → MovesTo (step s) { s with phase := .done }) ∧
    (s.tmr = 1 → s.initStg = 1#2 → MovesTo (step s) { s with tmr := nReset s.params, phase := .rstw }) ∧
    (s.tmr = 1 → s.initStg = 2#2 → MovesTo (step s) { s with online := true, initStg := 0, phase := .done })

/-- `BOOTW` and `RSTW` (41_delivery.md R130): the long waits of INIT, and the frames that follow them. -/
def Obligations.LongWaitsEndInTheirFrames : Prop :=
  ∀ s : State, s.pins.rst = false →
    (s.phase = .bootw ∨ s.phase = .rstw → 1 < s.tmr → MovesTo (step s) { s with tmr := s.tmr - 1 }) ∧
    (s.phase = .bootw → s.tmr = 1 →
      MovesTo (step s) { s with fbuf := encodeFrame 0x0C 0x00 0x00, bidx := 0, phase := .send }) ∧
    (s.phase = .rstw → s.tmr = 1 →
      MovesTo (step s)
        { s with fbuf := encodeFrame 0x06 0x00 (s.vol.setWidth 8), bidx := 0, initStg := 2, phase := .send })

/-- `DONE` (41_delivery.md R131): the response is given, `PHASE` goes to `IDLE`, and the request pins are not
looked at. -/
def Obligations.DoneCycleReturns : Prop :=
  ∀ s : State, s.phase = .done → s.pins.rst = false →
    s.rspValid = true ∧ s.rspData = some s.rval ∧
    Becomes (step s) { s with trace := s.trace ++ [.ret s.rval], phase := .idle } ∧
    ∀ t, SameButRequestPins s t → step t = step s

/-- The complete list of `PHASE` transitions (41_delivery.md R134). -/
def Obligations.PhaseTransitionsAreThoseListed : Prop :=
  ∀ s t : State, step s = .next t →
    if s.pins.rst = true then t.phase = .idle
    else match s.phase with
      | .idle =>
        if s.pins.reqValid = false then t.phase = .idle
        else match s.pins.reqOp.toNat with
          | 0x0 => t.phase = .bootw
          | 0x1 | 0x3 | 0xD | 0xE | 0xF => t.phase = .done
          | 0xB => t.phase = if s.vol.toNat < 30 ∨ s.params.stepAtLimitSends = true then .send else .done
          | 0xC => t.phase = if 0 < s.vol.toNat ∨ s.params.stepAtLimitSends = true then .send else .done
          | _ => t.phase = .send
      | .bootw => (1 < s.tmr ∧ t.phase = .bootw) ∨ (s.tmr = 1 ∧ t.phase = .send)
      | .send => t.phase = if s.pins.txReady = true ∧ s.bidx.toNat = 9 then .settle else .send
      | .settle => (1 < s.tmr ∧ t.phase = .settle) ∨ (s.tmr = 1 ∧ s.initStg = 1#2 ∧ t.phase = .rstw) ∨
          (s.tmr = 1 ∧ (s.initStg = 0#2 ∨ s.initStg = 2#2) ∧ t.phase = .done)
      | .rstw => (1 < s.tmr ∧ t.phase = .rstw) ∨ (s.tmr = 1 ∧ t.phase = .send)
      | .done => t.phase = .idle
      | .unused6 => False
      | .unused7 => False

/-- `rst` wins over everything (60_exceptions.md R173, 70_reset_and_hazards.md R190, R192): the outputs are 0, no
event happens, and the next state has the reset values; `FBUF` is left out, its value is the model's choice. -/
def Obligations.RstWinsOverEverything : Prop :=
  ∀ s : State, s.pins.rst = true →
    s.reqReady = false ∧ s.txValid = false ∧ s.rspValid = false ∧
    ∃ t, step s = .next t ∧ t.vol = 20 ∧ t.online = false ∧ t.phase = .idle ∧ t.initStg = 0 ∧ t.bidx = 0 ∧
      t.tmr = 0 ∧ t.rval = 0 ∧ t.trace = s.trace ∧ t.params = s.params ∧
      (t.pins.rst = false → t.reqReady = true)

/-- The reset state (10_state.md R33): every register but `FBUF`, which the spec leaves unspecified, and an empty
stream; it meets the invariants of 10_state.md R29. -/
def Obligations.ResetStateHasTheResetValues : Prop :=
  let r := State.reset
  r.vol = 20 ∧ r.online = false ∧ r.phase = .idle ∧ r.initStg = 0 ∧ r.bidx = 0 ∧ r.tmr = 0 ∧ r.rval = 0 ∧
    r.stream = [] ∧ r.txValid = false ∧ r.rspValid = false ∧ r.reqReady = !r.pins.rst ∧
    r.Inv ∧ r.EmitInv ∧ State.Framed 0 r

/-- The codes no run reaches are refused by name. For `PHASE` 6 and 7, `BIDX` above 9 and `INITSTG` 3 the refusal is
93_implementation_defined.md U6's; for `TMR` = 0 in a wait phase, of which 41_delivery.md R133 only says that it never
occurs, it is the model's choice, as is the cycle in which each refusal falls (log entry 9). -/
def Obligations.UnreachableCodesAreRefused : Prop :=
  ∀ s : State, s.pins.rst = false →
    (s.phase = .unused6 ∨ s.phase = .unused7 → step s = .refused .unreachablePhase) ∧
    (s.phase = .send → 10 ≤ s.bidx.toNat → step s = .refused .unreachableByteIndex) ∧
    (s.phase = .settle → s.tmr = 1 → s.initStg = 3#2 → step s = .refused .unreachableInitStage) ∧
    (s.phase = .bootw ∨ s.phase = .settle ∨ s.phase = .rstw → s.tmr = 0 → step s = .refused .unreachableTimer)

/-! ## Invariants and whole-machine rules -/

/-- Every step keeps the invariants (a) to (f) of 10_state.md R29, and `TMR` within its `TMRW` bits. -/
def Obligations.StepKeepsTheInvariants : Prop :=
  ∀ s t : State, s.Inv → step s = .next t → t.Inv

/-- Every step keeps what stands in `FBUF` during `SEND` a frame SGFE can emit (30_encoding.md R69, R71). -/
def Obligations.StepKeepsTheFrameEmittable : Prop :=
  ∀ s t : State, s.EmitInv → step s = .next t → t.EmitInv

/-- No state that meets the invariant offers a byte of a QueryStatus frame or of an undefined command
(40_encoder.md R104, 42_controller_ops.md R156 (b), (h)): the command byte in `FBUF` is one of the issued set, and
the ten bytes are a valid frame. -/
def Obligations.OnlyIssuedCommandsAreSent : Prop :=
  ∀ s : State, s.EmitInv → s.phase = .send →
    frameByte s.fbuf 3 ∈ [0x01#8, 0x02#8, 0x03#8, 0x06#8, 0x0C#8, 0x0E#8, 0x0F#8, 0x16#8] ∧
    frameByte s.fbuf 3 ≠ 0x42#8 ∧ validFrame (frameBytes s.fbuf) = true

/-- From a state that meets the invariants no step stops: every request word is accepted and no cycle is refused
(60_exceptions.md R170). -/
def Obligations.InvariantStatesNeverStop : Prop :=
  ∀ s : State, s.Inv → ∃ t, step s = .next t

/-- `ONLINE` rises only at the end of INIT's second settling interval and falls only by `rst` (10_state.md R21,
60_exceptions.md R176). -/
def Obligations.OnlineRisesAtInitEndAndFallsByRst : Prop :=
  ∀ s t : State, step s = .next t →
    t.online = (if s.pins.rst = true then false
      else if s.phase = .settle ∧ s.tmr = 1 ∧ s.initStg = 2#2 then true else s.online)

/-- `VOL` is written by accepted SETVOL, VOLUP and VOLDN requests and by `rst`, and by nothing else
(10_state.md R20; 40_encoder.md R92 (f)). -/
def Obligations.VolIsWrittenByVolumeRequestsAndRst : Prop :=
  ∀ s t : State, step s = .next t →
    let v : Int := s.vol.toNat
    (t.vol.toNat : Int) =
      if s.pins.rst = true then 20
      else if s.phase = .idle ∧ s.pins.reqValid = true then
        match s.pins.reqOp.toNat with
        | 0x2 => clamp s.pins.reqArg.toInt 0 30
        | 0xB => if v < 30 then v + 1 else v
        | 0xC => if 0 < v then v - 1 else v
        | _ => v
      else v

/-- `FBUF` is written only when a frame-sending step starts, and by `rst` (10_state.md R28). -/
def Obligations.FbufIsWrittenOnlyWhenAFrameStarts : Prop :=
  ∀ s t : State, step s = .next t → t.fbuf ≠ s.fbuf →
    s.pins.rst = true ∨ (s.phase ≠ .send ∧ t.phase = .send ∧ t.bidx = 0)

/-- Each cycle's event is what its pins say (00_scope.md R11, 41_delivery.md R124, R126): a byte exactly when
`tx_valid` and `tx_ready`, a return exactly when `rsp_valid`, and a wait in the last cycle of a wait phase (the
place of that event is the model's choice, log entry 6). -/
def Obligations.EventsAreWhatThePinsShow : Prop :=
  ∀ s t : State, step s = .next t →
    t.trace = s.trace ++
      (if s.transfers = true then [.tx (frameByte s.fbuf s.bidx.toNat)]
       else if s.rspValid = true then [.ret s.rval]
       else if s.pins.rst = false ∧ s.tmr = 1 then ((waitMs s.phase).map Event.wait).toList
       else [])

/-- The request pins are looked at in `IDLE` only (41_delivery.md R125, 20_memory.md R54, 70_reset_and_hazards.md
R202): in any other phase, and while `rst` = 1, they make no difference. -/
def Obligations.BusyMachineIgnoresTheRequestPins : Prop :=
  ∀ s t : State, SameButRequestPins s t → s.phase ≠ .idle ∨ s.pins.rst = true → step t = step s

/-- `tx_ready` is looked at in `SEND` only (41_delivery.md R124, 60_exceptions.md R173). -/
def Obligations.TxReadyMattersInSendOnly : Prop :=
  ∀ (s : State) (b : Bool), s.phase ≠ .send ∨ s.pins.rst = true →
    step { s with pins := { s.pins with txReady := b } } = step s

/-- No operation but ISONLINE depends on `ONLINE` (42_controller_ops.md R155): changing the flag changes nothing in
what an instruction does but the flag. -/
def Obligations.OnlyIsonlineDependsOnOnline : Prop :=
  ∀ (i : Instr) (s : State) (b : Bool), (∀ a, i ≠ .isonline a) →
    exec i { s with online := b } = onNext (fun t => { t with online := b }) (exec i s)

/-- The inputs do not depend on the machine, and no step changes the parameters (log entries 2 and 3). -/
def Obligations.StepsMoveTheInputsAndKeepTheParameters : Prop :=
  ∀ s t : State, step s = .next t →
    t.params = s.params ∧ t.cycle = s.cycle + 1 ∧ ∀ n, t.pinsAt n = s.pinsAt (n + 1)

/-- The end of a run (00_scope.md R14). A cycle that can end one is quiescent: the machine is ready, nothing is in
flight, and the cycle changes nothing. And a run of any program, from any state through `rst`, ends in such a cycle,
once, with the trace and the registers that the program's operations give from the reset values; the `Ret` of the last
one, if there is one, stands in the cycle before. `RunEnds` admits a host that presents a request early, so this holds
of every `Run`. -/
def Obligations.FinalStateIsQuiescent : Prop :=
  (∀ s : State, s.final →
    s.reqReady = true ∧ s.txValid = false ∧ s.rspValid = false ∧ step s = .next (s.ticks 1)) ∧
  (∀ (s t : State) (program : List Instr) (r n : Nat), RunEnds s program r n t →
    t.final ∧
    t.arch = (performAll s.params program ⟨20, false⟩).1 ∧
    t.trace = s.trace ++ (performAll s.params program ⟨20, false⟩).2 ∧
    (program ≠ [] → 0 < n ∧ ∃ d, runCycles (r + (n - 1)) s = .next d ∧ d.rspValid = true) ∧
    ∀ r' n' t', RunEnds s program r' n' t' → r' = r ∧ n' = n ∧ t' = t)

/-! ## Spans of cycles -/

/-- A wait begun with `TMR` = N lasts exactly N cycles (41_delivery.md R133). -/
def Obligations.WaitsLastExactlyTheirCount : Prop :=
  ∀ (s : State) (m : Nat), waitLength s.params s.phase = some m → 1 ≤ s.tmr → NoReset s s.tmr →
    (s.phase = .settle → s.initStg ≠ 3#2) →
    (∀ k, k < s.tmr → runCycles k s = .next { s.ticks k with tmr := s.tmr - k }) ∧
    ∃ t, runCycles s.tmr s = .next t ∧ t.phase ≠ s.phase

/-- A sink that is not ready holds the byte on offer and everything else, for as long as it lasts
(41_delivery.md R124, R136). -/
def Obligations.StallHoldsTheByte : Prop :=
  ∀ (s : State) (n : Nat), s.phase = .send → s.bidx.toNat ≤ 9 → NoReset s n →
    (∀ k, k < n → (s.pinsAt k).txReady = false) → runCycles n s = .next (s.ticks n)

/-- An operation that sends nothing returns in the next cycle (41_delivery.md R135 (a)). -/
def Obligations.NoFrameOperationReturnsAtOnce : Prop :=
  ∀ (s : State) (v : Byte), s.accepts = true → NoReset s 2 →
    (perform s.params s.request s.arch).2 = [.ret v] →
    ∃ d t, runCycles 1 s = .next d ∧ d.phase = .done ∧ d.rval = v ∧
      runCycles 2 s = .next t ∧ t.phase = .idle ∧ t.arch = s.arch ∧ t.trace = s.trace ++ [.ret v]

/-- An operation that sends one frame (41_delivery.md R135 (b)): the sink takes the ten bytes in cycles 1 to `m`
after the accept cycle, stalls included (`m` is 10 + S), the settling interval has its N cycles, and the operation
returns in the cycle after, with the trace and the registers of 42_controller_ops.md. -/
def Obligations.OneFrameOperationReturnsOnTime : Prop :=
  ∀ (s : State) (f : BitVec 80) (m : Nat), s.accepts = true →
    (perform s.params s.request s.arch).2 = deliver f ++ [.ret 0x00#8] →
    TakesTen s 1 m → NoReset s (m + 2 + nSettle s.params) →
    ∃ e d t, runCycles (m + 1) s = .next e ∧ e.phase = .settle ∧
      runCycles (m + 1 + nSettle s.params) s = .next d ∧ d.phase = .done ∧ d.rval = 0 ∧
      runCycles (m + 2 + nSettle s.params) s = .next t ∧ t.phase = .idle ∧
      t.arch = (perform s.params s.request s.arch).1 ∧ t.trace = s.trace ++ deliver f ++ [.ret 0x00#8]

/-- INIT (41_delivery.md R135 (c), 42_controller_ops.md R140): the sink takes the Reset frame in `m` cycles and the
SetVolume frame in `n`, stalls included; `ONLINE` reads 1 from the cycle of the return on. -/
def Obligations.InitReturnsOnTime : Prop :=
  ∀ (s : State) (a : Half) (m n : Nat), s.accepts = true → s.request = .init a → s.vol.toNat ≤ 30 →
    let first := 1 + nBoot s.params
    let second := first + m + nSettle s.params + nReset s.params
    let last := second + n + nSettle s.params
    TakesTen s first m → TakesTen s second n → NoReset s (last + 1) →
    ∃ d t, runCycles last s = .next d ∧ d.phase = .done ∧ d.rval = 0 ∧ d.online = true ∧
      runCycles (last + 1) s = .next t ∧ t.phase = .idle ∧ t.vol = s.vol ∧ t.online = true ∧
      t.trace = s.trace ++ [.wait 500] ++ deliver (encodeFrame 0x0C 0x00 0x00) ++ [.wait 1000] ++
        deliver (encodeFrame 0x06 0x00 (s.vol.setWidth 8)) ++ [.ret 0x00#8]

/-- The clocked machine refines the abstract one (41_delivery.md R132): whatever the sink does, a request accepted
with a legal volume, once `PHASE` is back in `IDLE` without a `rst` on the way, has produced exactly the events and
the registers of its rule in 42_controller_ops.md. -/
def Obligations.ClockedRunRefinesTheOperation : Prop :=
  ∀ (s t : State) (n : Nat), s.accepts = true → s.vol.toNat ≤ 30 → NoReset s n → ReturnsAfter s n t →
    t.arch = (perform s.params s.request s.arch).1 ∧
    t.trace = s.trace ++ (perform s.params s.request s.arch).2

/-- The settling interval keeps frames apart (41_delivery.md R122, R135 (d)): after byte 9 of a frame no byte is
offered for at least `N_SETTLE` + 2 cycles, and inside INIT for at least `N_SETTLE` + `N_RESET`. -/
def Obligations.FramesAreKeptApart : Prop :=
  ∀ (s t : State) (n : Nat), s.phase = .settle → s.tmr = nSettle s.params → NoReset s n →
    runCycles n s = .next t → t.phase = .send →
    nSettle s.params + 2 ≤ n ∧ (s.initStg = 1#2 → nSettle s.params + nReset s.params ≤ n)

/-- The stream since the last reset is whole frames and the begun part of the one being sent (20_memory.md R45,
R51; 41_delivery.md R121): every step keeps it so, and a `rst` begins a new count. -/
def Obligations.StepKeepsTheStreamFramed : Prop :=
  ∀ (base : Nat) (s t : State), s.Inv → State.Framed base s → step s = .next t →
    (s.pins.rst = false → State.Framed base t) ∧ (s.pins.rst = true → State.Framed t.stream.length t)

/-- Counted from reset, byte 10k of the stream is `7E` and byte 10k + 9 is `EF` (20_memory.md R45). -/
def Obligations.FramedStreamHasItsMarkers : Prop :=
  ∀ (base k : Nat) (s : State), s.Inv → State.Framed base s →
    (base + 10 * k < s.stream.length → s.stream[base + 10 * k]? = some 0x7E#8) ∧
    (base + 10 * k + 9 < s.stream.length → s.stream[base + 10 * k + 9]? = some 0xEF#8)

/-! ## The abstract level -/

/-- What the operations have in common (42_controller_ops.md R156 (a) to (c)): a request's trace is a return alone,
one delivered frame of an issued command and a return of 0, or INIT's. -/
def Obligations.TracesHaveOneOfThreeShapes : Prop :=
  ∀ (p : Params) (i : Instr) (a : Arch), i.isRequest = true →
    (∃ v, (perform p i a).2 = [.ret v]) ∨
    (∃ c ∈ issuedCodes, ∃ h l, (perform p i a).2 = deliver (encodeFrame c h l) ++ [.ret 0x00#8]) ∨
    ((∃ x, i = .init x) ∧ ∃ v : Byte, v.toNat ≤ 30 ∧
      (perform p i a).2 = [.wait 500] ++ deliver (encodeFrame 0x0C 0x00 0x00) ++ [.wait 1000] ++
        deliver (encodeFrame 0x06 0x00 v) ++ [.ret 0x00#8])

/-- The registers between operations (42_controller_ops.md R156 (d), (e)): whatever program is run, a legal volume
stays legal, and the online flag is set by the first INIT and never cleared. -/
def Obligations.ProgramsKeepVolumeLegalAndOnlineMonotone : Prop :=
  ∀ (p : Params) (is : List Instr) (a : Arch), a.vol.toNat ≤ 30 →
    (performAll p is a).1.vol.toNat ≤ 30 ∧
    ((performAll p is a).1.online = true ↔ a.online = true ∨ ∃ x, Instr.init x ∈ is)

/-- Every request returns exactly once, last, and with the value of 30_encoding.md R75. -/
def Obligations.EveryRequestReturnsOnceAndLast : Prop :=
  ∀ (p : Params) (i : Instr) (a : Arch), i.isRequest = true →
    (perform p i a).2.countP (fun e => match e with | .ret _ => true | .tx _ => false | .wait _ => false) = 1 ∧
    (perform p i a).2.getLast? = some (.ret
      (match i with
      | .isonline _ => if a.online then 1 else 0
      | .getvol _ => a.vol.setWidth 8
      | _ => 0))
end

