-- ==== Sys2Proof/Laws/Encoder.lean ====
section
/-! SUPPORT. Laws of the frame layout: packing a frame and reading its bytes are inverse, the command bytes are
those of the CommandCodes, the checksum has no wrap. -/

namespace Sys2Proof

section Layout

variable (c h l : Byte) (ck : Half)

@[simp] theorem frameByte_packFrame_0 : frameByte (packFrame c h l ck) 0 = startByte := by
  apply BitVec.eq_of_getLsbD_eq; intro i hi
  simp only [frameByte, packFrame, BitVec.getLsbD_extractLsb', BitVec.getLsbD_append, hi]
  grind

@[simp] theorem frameByte_packFrame_1 : frameByte (packFrame c h l ck) 1 = versionByte := by
  apply BitVec.eq_of_getLsbD_eq; intro i hi
  simp only [frameByte, packFrame, BitVec.getLsbD_extractLsb', BitVec.getLsbD_append, hi]
  grind

@[simp] theorem frameByte_packFrame_2 : frameByte (packFrame c h l ck) 2 = lengthByte := by
  apply BitVec.eq_of_getLsbD_eq; intro i hi
  simp only [frameByte, packFrame, BitVec.getLsbD_extractLsb', BitVec.getLsbD_append, hi]
  grind

@[simp] theorem frameByte_packFrame_3 : frameByte (packFrame c h l ck) 3 = c := by
  apply BitVec.eq_of_getLsbD_eq; intro i hi
  simp only [frameByte, packFrame, BitVec.getLsbD_extractLsb', BitVec.getLsbD_append, hi]
  grind

@[simp] theorem frameByte_packFrame_4 : frameByte (packFrame c h l ck) 4 = feedbackByte := by
  apply BitVec.eq_of_getLsbD_eq; intro i hi
  simp only [frameByte, packFrame, BitVec.getLsbD_extractLsb', BitVec.getLsbD_append, hi]
  grind

@[simp] theorem frameByte_packFrame_5 : frameByte (packFrame c h l ck) 5 = h := by
  apply BitVec.eq_of_getLsbD_eq; intro i hi
  simp only [frameByte, packFrame, BitVec.getLsbD_extractLsb', BitVec.getLsbD_append, hi]
  grind

@[simp] theorem frameByte_packFrame_6 : frameByte (packFrame c h l ck) 6 = l := by
  apply BitVec.eq_of_getLsbD_eq; intro i hi
  simp only [frameByte, packFrame, BitVec.getLsbD_extractLsb', BitVec.getLsbD_append, hi]
  grind

@[simp] theorem frameByte_packFrame_7 : frameByte (packFrame c h l ck) 7 = highByte ck := by
  apply BitVec.eq_of_getLsbD_eq; intro i hi
  simp only [frameByte, packFrame, highByte, BitVec.getLsbD_extractLsb', BitVec.getLsbD_append, hi]
  grind

@[simp] theorem frameByte_packFrame_8 : frameByte (packFrame c h l ck) 8 = lowByte ck := by
  apply BitVec.eq_of_getLsbD_eq; intro i hi
  simp only [frameByte, packFrame, lowByte, BitVec.getLsbD_extractLsb', BitVec.getLsbD_append, hi]
  grind

@[simp] theorem frameByte_packFrame_9 : frameByte (packFrame c h l ck) 9 = endByte := by
  apply BitVec.eq_of_getLsbD_eq; intro i hi
  simp only [frameByte, packFrame, BitVec.getLsbD_extractLsb', BitVec.getLsbD_append, hi]
  grind

/-- The bytes of a frame, in the order of 30_encoding.md R64. -/
theorem frameBytes_packFrame :
    frameBytes (packFrame c h l ck) =
      [startByte, versionByte, lengthByte, c, feedbackByte, h, l, highByte ck, lowByte ck, endByte] := by
  simp [frameBytes, List.range_succ]

end Layout

/-- The two bytes of a 16-bit field make it up again. -/
@[simp] theorem highByte_append_lowByte (x : Half) : (highByte x ++ lowByte x : BitVec 16) = x := by
  apply BitVec.eq_of_getLsbD_eq; intro i hi
  simp only [highByte, lowByte, BitVec.getLsbD_extractLsb', BitVec.getLsbD_append]
  grind

@[simp] theorem highByte_append (a b : Byte) : highByte (a ++ b : BitVec 16) = a := by
  apply BitVec.eq_of_getLsbD_eq; intro i hi
  simp only [highByte, BitVec.getLsbD_extractLsb', BitVec.getLsbD_append, hi]
  grind

@[simp] theorem lowByte_append (a b : Byte) : lowByte (a ++ b : BitVec 16) = b := by
  apply BitVec.eq_of_getLsbD_eq; intro i hi
  simp only [lowByte, BitVec.getLsbD_extractLsb', BitVec.getLsbD_append, hi]
  grind

/-- An 80-bit value is its ten bytes. -/
theorem append_frameBytes (f : BitVec 80) :
    (frameByte f 0 ++ frameByte f 1 ++ frameByte f 2 ++ frameByte f 3 ++ frameByte f 4 ++ frameByte f 5 ++
      frameByte f 6 ++ (frameByte f 7 ++ frameByte f 8 : BitVec 16) ++ frameByte f 9 : BitVec 80) = f := by
  apply BitVec.eq_of_getLsbD_eq; intro i hi
  simp only [frameByte, BitVec.getLsbD_extractLsb', BitVec.getLsbD_append]
  grind

/-- A frame with the fixed bytes of R64 is packed from its other bytes. -/
theorem packFrame_of_fixed (f : BitVec 80) (h0 : frameByte f 0 = startByte) (h1 : frameByte f 1 = versionByte)
    (h2 : frameByte f 2 = lengthByte) (h4 : frameByte f 4 = feedbackByte) (h9 : frameByte f 9 = endByte) :
    packFrame (frameByte f 3) (frameByte f 5) (frameByte f 6) (frameByte f 7 ++ frameByte f 8) = f := by
  conv_rhs => rw [← append_frameBytes f, h0, h1, h2, h4, h9]
  rfl

/-- The CommandCode of a code's own byte. -/
@[simp] theorem commandOfByte_code (c : CommandCode) : commandOfByte c.code = some c := by
  cases c <;> decide

/-- A byte that has a CommandCode is that code's byte. -/
theorem code_of_commandOfByte (b : Byte) (c : CommandCode) (h : commandOfByte b = some c) : c.code = b := by
  have := List.find?_some h
  simpa using this

/-- What decoding a frame answers, when it answers an instruction: the fixed bytes are right and the fields are the
other bytes. -/
theorem decodeFrame_ok (f : BitVec 80) (i : Instr) (h : decodeFrame f = .ok i) :
    ∃ c hi lo ck, f = packFrame (CommandCode.code c) hi lo ck ∧ i = FrameFields.instr ⟨c, hi, lo, ck⟩ := by
  unfold decodeFrame at h
  split at h
  · cases h
  split at h
  · cases h
  split at h
  · cases h
  split at h
  · cases h
  split at h
  · cases h
  rename_i h0 h1 h2 h4 h9
  split at h
  · cases h
  · rename_i c hc
    refine ⟨c, frameByte f 5, frameByte f 6, frameByte f 7 ++ frameByte f 8, ?_, ?_⟩
    · rw [code_of_commandOfByte _ _ hc]
      exact (packFrame_of_fixed f (not_not.mp h0) (not_not.mp h1) (not_not.mp h2) (not_not.mp h4)
        (not_not.mp h9)).symm
    · cases h; rfl

/-- A packed frame of a CommandCode decodes to its fields. -/
theorem decodeFrame_packFrame (c : CommandCode) (h l : Byte) (ck : Half) :
    decodeFrame (packFrame c.code h l ck) = .ok (FrameFields.instr ⟨c, h, l, ck⟩) := by
  simp [decodeFrame]

namespace Machine

/-- The sum of bytes 1 to 6 lies between 0x105 and 0x402 (40_encoder.md R92 (b)). -/
theorem frameSum_bounds (c h l : Byte) : 0x105 ≤ frameSum c h l ∧ frameSum c h l ≤ 0x402 := by
  have := c.isLt; have := h.isLt; have := l.isLt
  simp only [frameSum, versionByte, lengthByte, feedbackByte, BitVec.toNat_ofNat]
  omega

/-- The checksum as a number; nothing wraps (40_encoder.md R92 (c)). -/
theorem checksum_toNat (c h l : Byte) : (checksum c h l).toNat = 0x10000 - frameSum c h l := by
  have := frameSum_bounds c h l
  simp only [checksum, BitVec.toNat_ofNat]
  omega

end Machine

end Sys2Proof
end

