-- ==== Sys2Proof/Laws/PerInstr.lean ====
section
/-! SUPPORT. One law per instruction: its encoded word matches its own row of spec/opcode_table.json (the fixed
bits under the row's mask), whatever the operands. The masks and patterns are the table's (30_encoding.md R60, R64;
90_conflicts.md C6). -/

namespace Sys2Proof.Laws

/-- A row of the opcode table: a mask and a pattern of a request word or of a frame. -/
inductive RowMatch.Row where
  | req (mask pattern : BitVec 20)
  | frame (mask pattern : BitVec 80)
deriving DecidableEq, Repr

/-- A word matches a row when its bits under the mask are the pattern. -/
def RowMatch.Matches : InsnWord → RowMatch.Row → Prop
  | .req w, .req m p => w &&& m = p
  | .frame f, .frame m p => f &&& m = p
  | .req _, .frame _ _ => False
  | .frame _, .req _ _ => False

/-- The request row of an opcode: `op` in bits 19 to 16, the mask over those four (30_encoding.md R60). -/
def RowMatch.reqRow (pattern : BitVec 20) : RowMatch.Row := .req 0xF0000#20 pattern

/-- The frame row of a command: every byte fixed but the two parameter bytes and the checksum (30_encoding.md R64). -/
def RowMatch.frameRow (pattern : BitVec 80) : RowMatch.Row := .frame 0xFFFFFFFFFF00000000FF#80 pattern

/-- The row of each instruction. -/
def RowMatch.row : Instr → RowMatch.Row
  | .init _ => RowMatch.reqRow 0x00000#20
  | .isonline _ => RowMatch.reqRow 0x10000#20
  | .setvol _ => RowMatch.reqRow 0x20000#20
  | .getvol _ => RowMatch.reqRow 0x30000#20
  | .playtrk _ => RowMatch.reqRow 0x40000#20
  | .playfld _ _ => RowMatch.reqRow 0x50000#20
  | .pause _ => RowMatch.reqRow 0x60000#20
  | .resume _ => RowMatch.reqRow 0x70000#20
  | .stop _ => RowMatch.reqRow 0x80000#20
  | .next _ => RowMatch.reqRow 0x90000#20
  | .prev _ => RowMatch.reqRow 0xA0000#20
  | .volup _ => RowMatch.reqRow 0xB0000#20
  | .voldn _ => RowMatch.reqRow 0xC0000#20
  | .reservedD _ => RowMatch.reqRow 0xD0000#20
  | .reservedE _ => RowMatch.reqRow 0xE0000#20
  | .reservedF _ => RowMatch.reqRow 0xF0000#20
  | .framePlay _ _ _ => RowMatch.frameRow 0x7EFF06030000000000EF#80
  | .framePause _ _ _ => RowMatch.frameRow 0x7EFF060E0000000000EF#80
  | .frameNext _ _ _ => RowMatch.frameRow 0x7EFF06010000000000EF#80
  | .framePrev _ _ _ => RowMatch.frameRow 0x7EFF06020000000000EF#80
  | .frameSetVolume _ _ _ => RowMatch.frameRow 0x7EFF06060000000000EF#80
  | .framePlayFromFolder _ _ _ => RowMatch.frameRow 0x7EFF060F0000000000EF#80
  | .frameStop _ _ _ => RowMatch.frameRow 0x7EFF06160000000000EF#80
  | .frameReset _ _ _ => RowMatch.frameRow 0x7EFF060C0000000000EF#80
  | .frameQueryStatus _ _ _ => RowMatch.frameRow 0x7EFF06420000000000EF#80

/-- The word of an instruction matches the instruction's row. -/
def RowMatch.Statement (i : Instr) : Prop := RowMatch.Matches (encode i) (RowMatch.row i)

/-- A request word shows its opcode under the mask. -/
theorem RowMatch.req_matches (op : BitVec 4) (arg : Half) :
    reqWord op arg &&& 0xF0000#20 = op ++ (0#16) := by
  apply BitVec.eq_of_getLsbD_eq
  intro k hk
  have h : (0xF0000#20).getLsbD k = decide (16 ≤ k) := by
    revert k; decide
  simp only [reqWord, BitVec.getLsbD_and, BitVec.getLsbD_append, h]
  by_cases hk' : k < 16
  · simp [hk']
  · simp [hk', Nat.not_lt.mp hk']

/-- A frame shows its constant bytes and its command under the mask. -/
theorem RowMatch.frame_matches (c h l : Byte) (ck : Half) :
    packFrame c h l ck &&& 0xFFFFFFFFFF00000000FF#80 =
      startByte ++ versionByte ++ lengthByte ++ c ++ feedbackByte ++ (0#32) ++ endByte := by
  apply BitVec.eq_of_getLsbD_eq
  intro k hk
  have hm : (0xFFFFFFFFFF00000000FF#80).getLsbD k = decide (k < 8 ∨ 40 ≤ k) := by
    revert k; decide
  simp only [packFrame, BitVec.getLsbD_and, BitVec.getLsbD_append, hm]
  by_cases h1 : k < 8
  · simp [h1]
  · by_cases h2 : k < 40
    · have h3 : ¬(40 ≤ k) := by omega
      have h4 : k - 8 < 32 := by omega
      simp [h1, h3, h4]
    · have h3 : 40 ≤ k := by omega
      have h4 : ¬(k - 8 < 32) := by omega
      have h5 : ¬(k - 8 < 16) := by omega
      have h6 : ¬(k - 8 - 16 < 8) := by omega
      have h7 : ¬(k - 8 - 16 - 8 < 8) := by omega
      have h8 : k - 8 - 16 - 8 - 8 = k - 8 - 32 := by omega
      simp [h1, h3, h4, h5, h6, h7, h8]

theorem RowMatch.init (a : Half) : RowMatch.Statement (.init a) := RowMatch.req_matches 0x0#4 a
theorem RowMatch.isonline (a : Half) : RowMatch.Statement (.isonline a) := RowMatch.req_matches 0x1#4 a
theorem RowMatch.setvol (a : Half) : RowMatch.Statement (.setvol a) := RowMatch.req_matches 0x2#4 a
theorem RowMatch.getvol (a : Half) : RowMatch.Statement (.getvol a) := RowMatch.req_matches 0x3#4 a
theorem RowMatch.playtrk (a : Half) : RowMatch.Statement (.playtrk a) := RowMatch.req_matches 0x4#4 a
theorem RowMatch.playfld (d t : Byte) : RowMatch.Statement (.playfld d t) := RowMatch.req_matches 0x5#4 (d ++ t)
theorem RowMatch.pause (a : Half) : RowMatch.Statement (.pause a) := RowMatch.req_matches 0x6#4 a
theorem RowMatch.resume (a : Half) : RowMatch.Statement (.resume a) := RowMatch.req_matches 0x7#4 a
theorem RowMatch.stop (a : Half) : RowMatch.Statement (.stop a) := RowMatch.req_matches 0x8#4 a
theorem RowMatch.next (a : Half) : RowMatch.Statement (.next a) := RowMatch.req_matches 0x9#4 a
theorem RowMatch.prev (a : Half) : RowMatch.Statement (.prev a) := RowMatch.req_matches 0xA#4 a
theorem RowMatch.volup (a : Half) : RowMatch.Statement (.volup a) := RowMatch.req_matches 0xB#4 a
theorem RowMatch.voldn (a : Half) : RowMatch.Statement (.voldn a) := RowMatch.req_matches 0xC#4 a
theorem RowMatch.reservedD (a : Half) : RowMatch.Statement (.reservedD a) := RowMatch.req_matches 0xD#4 a
theorem RowMatch.reservedE (a : Half) : RowMatch.Statement (.reservedE a) := RowMatch.req_matches 0xE#4 a
theorem RowMatch.reservedF (a : Half) : RowMatch.Statement (.reservedF a) := RowMatch.req_matches 0xF#4 a
theorem RowMatch.framePlay (h l : Byte) (ck : Half) : RowMatch.Statement (.framePlay h l ck) :=
  RowMatch.frame_matches 0x03#8 h l ck
theorem RowMatch.framePause (h l : Byte) (ck : Half) : RowMatch.Statement (.framePause h l ck) :=
  RowMatch.frame_matches 0x0E#8 h l ck
theorem RowMatch.frameNext (h l : Byte) (ck : Half) : RowMatch.Statement (.frameNext h l ck) :=
  RowMatch.frame_matches 0x01#8 h l ck
theorem RowMatch.framePrev (h l : Byte) (ck : Half) : RowMatch.Statement (.framePrev h l ck) :=
  RowMatch.frame_matches 0x02#8 h l ck
theorem RowMatch.frameSetVolume (h l : Byte) (ck : Half) : RowMatch.Statement (.frameSetVolume h l ck) :=
  RowMatch.frame_matches 0x06#8 h l ck
theorem RowMatch.framePlayFromFolder (h l : Byte) (ck : Half) : RowMatch.Statement (.framePlayFromFolder h l ck) :=
  RowMatch.frame_matches 0x0F#8 h l ck
theorem RowMatch.frameStop (h l : Byte) (ck : Half) : RowMatch.Statement (.frameStop h l ck) :=
  RowMatch.frame_matches 0x16#8 h l ck
theorem RowMatch.frameReset (h l : Byte) (ck : Half) : RowMatch.Statement (.frameReset h l ck) :=
  RowMatch.frame_matches 0x0C#8 h l ck
theorem RowMatch.frameQueryStatus (h l : Byte) (ck : Half) : RowMatch.Statement (.frameQueryStatus h l ck) :=
  RowMatch.frame_matches 0x42#8 h l ck

end Sys2Proof.Laws
end

