-- ==== Sys2Proof/Laws/State.lean ====
section
/-! SUPPORT. What each named update of the state does to each field, one lemma a field, so that no proof unfolds
a record update. -/

namespace Sys2Proof.Machine

variable (s : State)

/-! ### State.emit -/

@[simp] theorem State.emit_vol (e : Event) : (s.emit e).vol = s.vol := rfl
@[simp] theorem State.emit_online (e : Event) : (s.emit e).online = s.online := rfl
@[simp] theorem State.emit_phase (e : Event) : (s.emit e).phase = s.phase := rfl
@[simp] theorem State.emit_initStg (e : Event) : (s.emit e).initStg = s.initStg := rfl
@[simp] theorem State.emit_fbuf (e : Event) : (s.emit e).fbuf = s.fbuf := rfl
@[simp] theorem State.emit_bidx (e : Event) : (s.emit e).bidx = s.bidx := rfl
@[simp] theorem State.emit_tmr (e : Event) : (s.emit e).tmr = s.tmr := rfl
@[simp] theorem State.emit_rval (e : Event) : (s.emit e).rval = s.rval := rfl
@[simp] theorem State.emit_trace (e : Event) : (s.emit e).trace = s.trace ++ [e] := rfl
@[simp] theorem State.emit_params (e : Event) : (s.emit e).params = s.params := rfl
@[simp] theorem State.emit_pins (e : Event) : (s.emit e).pins = s.pins := rfl
@[simp] theorem State.emit_upcoming (e : Event) : (s.emit e).upcoming = s.upcoming := rfl
@[simp] theorem State.emit_cycle (e : Event) : (s.emit e).cycle = s.cycle := rfl

/-! ### State.setVol -/

@[simp] theorem State.setVol_vol (v : BitVec 5) : (s.setVol v).vol = v := rfl
@[simp] theorem State.setVol_online (v : BitVec 5) : (s.setVol v).online = s.online := rfl
@[simp] theorem State.setVol_phase (v : BitVec 5) : (s.setVol v).phase = s.phase := rfl
@[simp] theorem State.setVol_initStg (v : BitVec 5) : (s.setVol v).initStg = s.initStg := rfl
@[simp] theorem State.setVol_fbuf (v : BitVec 5) : (s.setVol v).fbuf = s.fbuf := rfl
@[simp] theorem State.setVol_bidx (v : BitVec 5) : (s.setVol v).bidx = s.bidx := rfl
@[simp] theorem State.setVol_tmr (v : BitVec 5) : (s.setVol v).tmr = s.tmr := rfl
@[simp] theorem State.setVol_rval (v : BitVec 5) : (s.setVol v).rval = s.rval := rfl
@[simp] theorem State.setVol_trace (v : BitVec 5) : (s.setVol v).trace = s.trace := rfl
@[simp] theorem State.setVol_params (v : BitVec 5) : (s.setVol v).params = s.params := rfl
@[simp] theorem State.setVol_pins (v : BitVec 5) : (s.setVol v).pins = s.pins := rfl
@[simp] theorem State.setVol_upcoming (v : BitVec 5) : (s.setVol v).upcoming = s.upcoming := rfl
@[simp] theorem State.setVol_cycle (v : BitVec 5) : (s.setVol v).cycle = s.cycle := rfl

/-! ### State.sendFrame -/

@[simp] theorem State.sendFrame_vol (f : BitVec 80) : (s.sendFrame f).vol = s.vol := rfl
@[simp] theorem State.sendFrame_online (f : BitVec 80) : (s.sendFrame f).online = s.online := rfl
@[simp] theorem State.sendFrame_phase (f : BitVec 80) : (s.sendFrame f).phase = .send := rfl
@[simp] theorem State.sendFrame_initStg (f : BitVec 80) : (s.sendFrame f).initStg = s.initStg := rfl
@[simp] theorem State.sendFrame_fbuf (f : BitVec 80) : (s.sendFrame f).fbuf = f := rfl
@[simp] theorem State.sendFrame_bidx (f : BitVec 80) : (s.sendFrame f).bidx = 0 := rfl
@[simp] theorem State.sendFrame_tmr (f : BitVec 80) : (s.sendFrame f).tmr = s.tmr := rfl
@[simp] theorem State.sendFrame_rval (f : BitVec 80) : (s.sendFrame f).rval = s.rval := rfl
@[simp] theorem State.sendFrame_trace (f : BitVec 80) : (s.sendFrame f).trace = s.trace := rfl
@[simp] theorem State.sendFrame_params (f : BitVec 80) : (s.sendFrame f).params = s.params := rfl
@[simp] theorem State.sendFrame_pins (f : BitVec 80) : (s.sendFrame f).pins = s.pins := rfl
@[simp] theorem State.sendFrame_upcoming (f : BitVec 80) : (s.sendFrame f).upcoming = s.upcoming := rfl
@[simp] theorem State.sendFrame_cycle (f : BitVec 80) : (s.sendFrame f).cycle = s.cycle := rfl

/-! ### State.start -/

@[simp] theorem State.start_vol (c : CommandCode) (h l : Byte) : (s.start c h l).vol = s.vol := rfl
@[simp] theorem State.start_online (c : CommandCode) (h l : Byte) : (s.start c h l).online = s.online := rfl
@[simp] theorem State.start_phase (c : CommandCode) (h l : Byte) : (s.start c h l).phase = .send := rfl
@[simp] theorem State.start_initStg (c : CommandCode) (h l : Byte) : (s.start c h l).initStg = 0 := rfl
@[simp] theorem State.start_fbuf (c : CommandCode) (h l : Byte) : (s.start c h l).fbuf = encodeFrame c.code h l := rfl
@[simp] theorem State.start_bidx (c : CommandCode) (h l : Byte) : (s.start c h l).bidx = 0 := rfl
@[simp] theorem State.start_tmr (c : CommandCode) (h l : Byte) : (s.start c h l).tmr = s.tmr := rfl
@[simp] theorem State.start_rval (c : CommandCode) (h l : Byte) : (s.start c h l).rval = 0x00#8 := rfl
@[simp] theorem State.start_trace (c : CommandCode) (h l : Byte) : (s.start c h l).trace = s.trace := rfl
@[simp] theorem State.start_params (c : CommandCode) (h l : Byte) : (s.start c h l).params = s.params := rfl
@[simp] theorem State.start_pins (c : CommandCode) (h l : Byte) : (s.start c h l).pins = s.pins := rfl
@[simp] theorem State.start_upcoming (c : CommandCode) (h l : Byte) : (s.start c h l).upcoming = s.upcoming := rfl
@[simp] theorem State.start_cycle (c : CommandCode) (h l : Byte) : (s.start c h l).cycle = s.cycle := rfl

/-! ### State.finish -/

@[simp] theorem State.finish_vol (v : Byte) : (s.finish v).vol = s.vol := rfl
@[simp] theorem State.finish_online (v : Byte) : (s.finish v).online = s.online := rfl
@[simp] theorem State.finish_phase (v : Byte) : (s.finish v).phase = .done := rfl
@[simp] theorem State.finish_initStg (v : Byte) : (s.finish v).initStg = s.initStg := rfl
@[simp] theorem State.finish_fbuf (v : Byte) : (s.finish v).fbuf = s.fbuf := rfl
@[simp] theorem State.finish_bidx (v : Byte) : (s.finish v).bidx = s.bidx := rfl
@[simp] theorem State.finish_tmr (v : Byte) : (s.finish v).tmr = s.tmr := rfl
@[simp] theorem State.finish_rval (v : Byte) : (s.finish v).rval = v := rfl
@[simp] theorem State.finish_trace (v : Byte) : (s.finish v).trace = s.trace := rfl
@[simp] theorem State.finish_params (v : Byte) : (s.finish v).params = s.params := rfl
@[simp] theorem State.finish_pins (v : Byte) : (s.finish v).pins = s.pins := rfl
@[simp] theorem State.finish_upcoming (v : Byte) : (s.finish v).upcoming = s.upcoming := rfl
@[simp] theorem State.finish_cycle (v : Byte) : (s.finish v).cycle = s.cycle := rfl

/-! ### State.startWait -/

@[simp] theorem State.startWait_vol (n : Nat) (ph : Phase) : (s.startWait n ph).vol = s.vol := rfl
@[simp] theorem State.startWait_online (n : Nat) (ph : Phase) : (s.startWait n ph).online = s.online := rfl
@[simp] theorem State.startWait_phase (n : Nat) (ph : Phase) : (s.startWait n ph).phase = ph := rfl
@[simp] theorem State.startWait_initStg (n : Nat) (ph : Phase) : (s.startWait n ph).initStg = s.initStg := rfl
@[simp] theorem State.startWait_fbuf (n : Nat) (ph : Phase) : (s.startWait n ph).fbuf = s.fbuf := rfl
@[simp] theorem State.startWait_bidx (n : Nat) (ph : Phase) : (s.startWait n ph).bidx = s.bidx := rfl
@[simp] theorem State.startWait_tmr (n : Nat) (ph : Phase) : (s.startWait n ph).tmr = n := rfl
@[simp] theorem State.startWait_rval (n : Nat) (ph : Phase) : (s.startWait n ph).rval = s.rval := rfl
@[simp] theorem State.startWait_trace (n : Nat) (ph : Phase) : (s.startWait n ph).trace = s.trace := rfl
@[simp] theorem State.startWait_params (n : Nat) (ph : Phase) : (s.startWait n ph).params = s.params := rfl
@[simp] theorem State.startWait_pins (n : Nat) (ph : Phase) : (s.startWait n ph).pins = s.pins := rfl
@[simp] theorem State.startWait_upcoming (n : Nat) (ph : Phase) : (s.startWait n ph).upcoming = s.upcoming := rfl
@[simp] theorem State.startWait_cycle (n : Nat) (ph : Phase) : (s.startWait n ph).cycle = s.cycle := rfl

/-! ### State.resetEdge -/

@[simp] theorem State.resetEdge_vol : (s.resetEdge).vol = 20 := rfl
@[simp] theorem State.resetEdge_online : (s.resetEdge).online = false := rfl
@[simp] theorem State.resetEdge_phase : (s.resetEdge).phase = .idle := rfl
@[simp] theorem State.resetEdge_initStg : (s.resetEdge).initStg = 0 := rfl
@[simp] theorem State.resetEdge_fbuf : (s.resetEdge).fbuf = 0 := rfl
@[simp] theorem State.resetEdge_bidx : (s.resetEdge).bidx = 0 := rfl
@[simp] theorem State.resetEdge_tmr : (s.resetEdge).tmr = 0 := rfl
@[simp] theorem State.resetEdge_rval : (s.resetEdge).rval = 0 := rfl
@[simp] theorem State.resetEdge_trace : (s.resetEdge).trace = s.trace := rfl
@[simp] theorem State.resetEdge_params : (s.resetEdge).params = s.params := rfl
@[simp] theorem State.resetEdge_pins : (s.resetEdge).pins = s.pins := rfl
@[simp] theorem State.resetEdge_upcoming : (s.resetEdge).upcoming = s.upcoming := rfl
@[simp] theorem State.resetEdge_cycle : (s.resetEdge).cycle = s.cycle := rfl

/-! ### State.tick -/

@[simp] theorem State.tick_vol : (s.tick).vol = s.vol := rfl
@[simp] theorem State.tick_online : (s.tick).online = s.online := rfl
@[simp] theorem State.tick_phase : (s.tick).phase = s.phase := rfl
@[simp] theorem State.tick_initStg : (s.tick).initStg = s.initStg := rfl
@[simp] theorem State.tick_fbuf : (s.tick).fbuf = s.fbuf := rfl
@[simp] theorem State.tick_bidx : (s.tick).bidx = s.bidx := rfl
@[simp] theorem State.tick_tmr : (s.tick).tmr = s.tmr := rfl
@[simp] theorem State.tick_rval : (s.tick).rval = s.rval := rfl
@[simp] theorem State.tick_trace : (s.tick).trace = s.trace := rfl
@[simp] theorem State.tick_params : (s.tick).params = s.params := rfl
@[simp] theorem State.tick_pins : (s.tick).pins = s.pinsAt 1 := rfl
@[simp] theorem State.tick_upcoming : (s.tick).upcoming = s.upcoming.tail := rfl
@[simp] theorem State.tick_cycle : (s.tick).cycle = s.cycle + 1 := rfl

/-! ### What the outputs and the stream see -/

theorem streamOf_append (a b : List Event) : streamOf (a ++ b) = streamOf a ++ streamOf b :=
  List.filterMap_append

@[simp] theorem State.emit_tx_stream (b : Byte) : (s.emit (.tx b)).stream = s.stream ++ [b] := by
  simp [State.stream, streamOf]

@[simp] theorem State.emit_wait_stream (d : Nat) : (s.emit (.wait d)).stream = s.stream := by
  simp [State.stream, streamOf]

@[simp] theorem State.emit_ret_stream (v : Byte) : (s.emit (.ret v)).stream = s.stream := by
  simp [State.stream, streamOf]

@[simp] theorem State.pinsAt_zero : s.pinsAt 0 = s.pins := rfl

/-- The pins of a later cycle do not depend on what the machine does in this one. -/
@[simp] theorem State.tick_pinsAt (n : Nat) : s.tick.pinsAt n = s.pinsAt (n + 1) := by
  cases n with
  | zero => rfl
  | succ n => simp [State.pinsAt, State.tick, List.getElem?_tail, Nat.add_assoc, Nat.add_comm 1]

end Sys2Proof.Machine
end

