-- ==== Sys2Proof/Laws/Requests.lean ====
section
/-! SUPPORT. What an accepted request can do, said once: every request answers a next state, of one of three
shapes (41_delivery.md R127). -/

namespace Sys2Proof.Machine

/-- The clamped volume as a number: the clamp of R67, never above 30. -/
theorem clampVolume_toNat (v : Int) : ((clampVolume v).toNat : Int) = clamp v volMin volMax := by
  have h : 0 ≤ clamp v volMin volMax ∧ clamp v volMin volMax ≤ 30 := by
    unfold clamp volMin volMax; split_ifs <;> omega
  rw [clampVolume, BitVec.toNat_ofInt]
  omega

theorem clampVolume_le (v : Int) : (clampVolume v).toNat ≤ 30 := by
  have h := clampVolume_toNat v
  have : clamp v volMin volMax ≤ 30 := by unfold clamp volMin volMax; split_ifs <;> omega
  omega

@[simp] theorem volumeByte_toNat (v : BitVec 5) : (volumeByte v).toNat = v.toNat := by
  have := v.isLt
  rw [volumeByte, BitVec.toNat_setWidth]
  omega

theorem vol_succ_toNat (v : BitVec 5) (h : v.toNat < 30) : (v + 1).toNat = v.toNat + 1 := by
  rw [BitVec.toNat_add, show BitVec.toNat (1 : BitVec 5) = 1 from rfl]; omega

theorem vol_pred_toNat (v : BitVec 5) (h : 0 < v.toNat) : (v - 1).toNat = v.toNat - 1 := by
  have := v.isLt
  rw [BitVec.toNat_sub, show BitVec.toNat (1 : BitVec 5) = 1 from rfl]; omega

/-- The three shapes of an accept cycle: return a value at once; store a volume and start a frame; begin INIT. -/
inductive Accepted (s : State) : State → Prop
  | finish (v : Byte) : Accepted s (s.finish v)
  | start (v : BitVec 5) (c : CommandCode) (h l : Byte) (issued : c ≠ .queryStatus)
      (legal : s.vol.toNat ≤ 30 → v.toNat ≤ 30 ∧ parameterRule c h l = true) :
      Accepted s ((s.setVol v).start c h l)
  | boot : Accepted s { s.startWait (nBoot s.params) .bootw with initStg := 1, rval := 0x00#8 }

/-- Storing a volume and sending it is a legal start if the volume is legal. -/
theorem accepted_store (s : State) (v : BitVec 5) (h : s.vol.toNat ≤ 30 → v.toNat ≤ 30) :
    Accepted s ((s.setVol v).start .setVolume 0x00#8 (volumeByte v)) :=
  .start v _ _ _ (by decide) fun hs => ⟨h hs, by simpa [parameterRule] using h hs⟩

/-- Starting a frame without storing a volume. -/
theorem accepted_start (s : State) (c : CommandCode) (h l : Byte) (hc : c ≠ .queryStatus)
    (hr : s.vol.toNat ≤ 30 → parameterRule c h l = true) : Accepted s (s.start c h l) :=
  Accepted.start (s := s) s.vol c h l hc fun hs => ⟨hs, hr hs⟩

theorem accepted_atLimit (s : State) : ∃ t, volumeAtLimit s = .next t ∧ Accepted s t := by
  unfold volumeAtLimit
  split
  · exact ⟨_, rfl, accepted_start s _ _ _ (by decide) fun hs => by simpa [parameterRule] using hs⟩
  · exact ⟨_, rfl, .finish _⟩

/-- Every request completes its accept cycle, in one of the three shapes. -/
theorem exec_request (i : Instr) (hi : i.isRequest = true) (s : State) : ∃ t, exec i s = .next t ∧ Accepted s t := by
  cases i with
  | init a => exact ⟨_, rfl, .boot⟩
  | isonline a => exact ⟨_, rfl, .finish _⟩
  | setvol v => exact ⟨_, rfl, accepted_store s _ fun _ => clampVolume_le _⟩
  | getvol a => exact ⟨_, rfl, .finish _⟩
  | playtrk t => exact ⟨_, rfl, accepted_start s _ _ _ (by decide) fun _ => rfl⟩
  | playfld d t => exact ⟨_, rfl, accepted_start s _ _ _ (by decide) fun _ => rfl⟩
  | pause a => exact ⟨_, rfl, accepted_start s _ _ _ (by decide) fun _ => rfl⟩
  | resume a => exact ⟨_, rfl, accepted_start s _ _ _ (by decide) fun _ => rfl⟩
  | stop a => exact ⟨_, rfl, accepted_start s _ _ _ (by decide) fun _ => rfl⟩
  | next a => exact ⟨_, rfl, accepted_start s _ _ _ (by decide) fun _ => rfl⟩
  | prev a => exact ⟨_, rfl, accepted_start s _ _ _ (by decide) fun _ => rfl⟩
  | volup a =>
    by_cases h : s.vol.toNat < 30
    · exact ⟨_, by simp [exec, execVolup, h, storeVolume],
        accepted_store s (s.vol + 1) fun _ => by rw [vol_succ_toNat _ h]; omega⟩
    · simpa [exec, execVolup, h] using accepted_atLimit s
  | voldn a =>
    by_cases h : 0 < s.vol.toNat
    · exact ⟨_, by simp [exec, execVoldn, h, storeVolume],
        accepted_store s (s.vol - 1) fun hs => by rw [vol_pred_toNat _ h]; omega⟩
    · simpa [exec, execVoldn, h] using accepted_atLimit s
  | reservedD a => exact ⟨_, rfl, .finish _⟩
  | reservedE a => exact ⟨_, rfl, .finish _⟩
  | reservedF a => exact ⟨_, rfl, .finish _⟩
  | framePlay h l ck => cases hi
  | framePause h l ck => cases hi
  | frameNext h l ck => cases hi
  | framePrev h l ck => cases hi
  | frameSetVolume h l ck => cases hi
  | framePlayFromFolder h l ck => cases hi
  | frameStop h l ck => cases hi
  | frameReset h l ck => cases hi
  | frameQueryStatus h l ck => cases hi

/-- A request word decodes to a request. -/
theorem decodeReq_isRequest (w : BitVec 20) : (decodeReq w).isRequest = true := by
  unfold decodeReq; dsimp only; split <;> rfl

end Sys2Proof.Machine
end

