-- ==== Sys2Proof/Laws/Step.lean ====
section
/-! SUPPORT. What a step can do, said once. `Cycle s u` lists every way a cycle without `rst` can take the
registers and the trace from `s` to `u`, and `step_cases` says that a step is one of them, or the reset edge. -/

namespace Sys2Proof.Machine

/-! ## Frames -/

/-- Each frame instruction is one cycle of delivering its frame. -/
theorem exec_frame (i : Instr) (x : FrameFields) (h : i.frameFields = some x) (s : State) :
    exec i s = sendByte (packFrame x.command.code x.paramHigh x.paramLow x.checksum) s := by
  cases i <;> cases h <;> rfl

@[simp] theorem frameFields_instr (x : FrameFields) : x.instr.frameFields = some x := by
  obtain ⟨c, h, l, ck⟩ := x
  cases c <;> rfl

/-- Executing the frame that a value decodes to is one cycle of delivering that value. -/
theorem exec_decodeFrame (f : BitVec 80) (i : Instr) (h : decodeFrame f = .ok i) (s : State) :
    exec i s = sendByte f s := by
  obtain ⟨c, hi, lo, ck, rfl, rfl⟩ := decodeFrame_ok f i h
  rw [exec_frame _ _ (frameFields_instr _)]

/-- What a `SEND` cycle can answer. -/
theorem sendByte_cases (f : BitVec 80) (s : State) :
    (9 < s.bidx.toNat ∧ sendByte f s = .refused .unreachableByteIndex) ∨
    (s.bidx.toNat ≤ 9 ∧ s.pins.txReady = false ∧ sendByte f s = .next s) ∨
    (s.bidx.toNat < 9 ∧ s.pins.txReady = true ∧
      sendByte f s = .next { s.emit (.tx (frameByte f s.bidx.toNat)) with bidx := s.bidx + 1 }) ∨
    (s.bidx.toNat = 9 ∧ s.pins.txReady = true ∧
      sendByte f s = .next ((s.emit (.tx (frameByte f 9))).startWait (nSettle s.params) .settle)) := by
  unfold sendByte
  split_ifs with h1 h2 h3
  · exact .inl ⟨h1, rfl⟩
  · exact .inr (.inl ⟨by omega, h2, rfl⟩)
  · exact .inr (.inr (.inl ⟨h3, by simpa using h2, rfl⟩))
  · exact .inr (.inr (.inr ⟨by omega, by simpa using h2, rfl⟩))

theorem bidx_succ_toNat (b : BitVec 4) (h : b.toNat < 9) : (b + 1).toNat = b.toNat + 1 := by
  rw [BitVec.toNat_add, show BitVec.toNat (1 : BitVec 4) = 1 from rfl]; omega

/-! ## The step by phase -/

section ByPhase

variable (s : State)

theorem step_rst (h : s.pins.rst = true) : step s = .next s.resetEdge.tick := by
  simp [step, h]

theorem step_quiet (h : s.pins.rst = false) (hp : s.phase = .idle) (hv : s.pins.reqValid = false) :
    step s = .next s.tick := by
  simp [step, h, fetch, fetchWord, hp, hv, sequencerCycle, clocked]

theorem step_accept (h : s.accepts = true) : step s = clocked (exec s.request s) := by
  simp only [State.accepts, State.reqReady, Bool.and_eq_true, decide_eq_true_eq, Bool.not_eq_true'] at h
  simp [step, h, fetch, fetchWord, decode, State.request, Except.toOption]

theorem step_send (h : s.pins.rst = false) (hp : s.phase = .send) : step s = clocked (sendByte s.fbuf s) := by
  simp only [step, h, fetch, fetchWord, hp, decode, Option.bind_some]
  cases hd : decodeFrame s.fbuf with
  | error e => simp [Except.toOption, sequencerCycle, hp]
  | ok i => simp [Except.toOption, exec_decodeFrame _ _ hd]

theorem step_bootw (h : s.pins.rst = false) (hp : s.phase = .bootw) :
    step s = clocked (waitCycle bootwExit s) := by
  simp [step, h, fetch, fetchWord, hp, sequencerCycle]

theorem step_settle (h : s.pins.rst = false) (hp : s.phase = .settle) :
    step s = clocked (waitCycle settleExit s) := by
  simp [step, h, fetch, fetchWord, hp, sequencerCycle]

theorem step_rstw (h : s.pins.rst = false) (hp : s.phase = .rstw) :
    step s = clocked (waitCycle rstwExit s) := by
  simp [step, h, fetch, fetchWord, hp, sequencerCycle]

theorem step_done (h : s.pins.rst = false) (hp : s.phase = .done) : step s = clocked (doneCycle s) := by
  simp [step, h, fetch, fetchWord, hp, sequencerCycle]

end ByPhase

/-! ## The inversion of a step -/

/-- Every way a cycle without `rst` can go, up to the clock edge (41_delivery.md R134). -/
inductive Cycle (s : State) : State → Prop
  | quiet (hp : s.phase = .idle) (hv : s.pins.reqValid = false) : Cycle s s
  | accept (u : State) (ha : s.accepts = true) (he : exec s.request s = .next u) : Cycle s u
  | stall (hp : s.phase = .send) (hb : s.bidx.toNat ≤ 9) (hr : s.pins.txReady = false) : Cycle s s
  | byte (hp : s.phase = .send) (hb : s.bidx.toNat < 9) (hr : s.pins.txReady = true) :
      Cycle s { s.emit (.tx (frameByte s.fbuf s.bidx.toNat)) with bidx := s.bidx + 1 }
  | lastByte (hp : s.phase = .send) (hb : s.bidx.toNat = 9) (hr : s.pins.txReady = true) :
      Cycle s ((s.emit (.tx (frameByte s.fbuf 9))).startWait (nSettle s.params) .settle)
  | count (n : Nat) (hp : s.phase = .bootw ∨ s.phase = .settle ∨ s.phase = .rstw) (ht : s.tmr = n + 2) :
      Cycle s { s with tmr := n + 1 }
  | bootEnd (hp : s.phase = .bootw) (ht : s.tmr = 1) : Cycle s ((s.emit (.wait tBootMs)).sendFrame resetFrame)
  | settleEndOperation (hp : s.phase = .settle) (ht : s.tmr = 1) (hi : s.initStg = 0#2) :
      Cycle s { s.emit (.wait tSettleMs) with phase := .done }
  | settleEndReset (hp : s.phase = .settle) (ht : s.tmr = 1) (hi : s.initStg = 1#2) :
      Cycle s ((s.emit (.wait tSettleMs)).startWait (nReset s.params) .rstw)
  | settleEndInit (hp : s.phase = .settle) (ht : s.tmr = 1) (hi : s.initStg = 2#2) :
      Cycle s { s.emit (.wait tSettleMs) with online := true, initStg := 0, phase := .done }
  | resetWaitEnd (hp : s.phase = .rstw) (ht : s.tmr = 1) :
      Cycle s { (s.emit (.wait tResetMs)).sendFrame (setVolumeFrame s.vol) with initStg := 2 }
  | done (hp : s.phase = .done) : Cycle s { s.emit (.ret s.rval) with phase := .idle }

theorem clocked_eq_next {a : Answer} {t : State} (h : clocked a = .next t) : ∃ u, a = .next u ∧ t = u.tick := by
  cases a with
  | next u => cases h; exact ⟨u, rfl, rfl⟩
  | fault r => cases h
  | refused r => cases h

@[simp] theorem clocked_next (u : State) : clocked (.next u) = .next u.tick := rfl

/-- A wait cycle either counts or takes the exit. -/
theorem waitCycle_eq_next {exit : State → Answer} {s u : State} (h : waitCycle exit s = .next u) :
    (∃ n, s.tmr = n + 2 ∧ u = { s with tmr := n + 1 }) ∨ (s.tmr = 1 ∧ exit s = .next u) := by
  unfold waitCycle at h
  split at h
  · cases h
  · exact .inr ⟨‹_›, h⟩
  · rename_i n hn
    cases h
    exact .inl ⟨n, hn, rfl⟩

/-- The inversion of a step: the reset edge, or one of the cycles of `Cycle`; then the clock. -/
theorem step_cases {s t : State} (h : step s = .next t) :
    (s.pins.rst = true ∧ t = s.resetEdge.tick) ∨ (s.pins.rst = false ∧ ∃ u, Cycle s u ∧ t = u.tick) := by
  cases hr : s.pins.rst with
  | true =>
    rw [step_rst s hr] at h
    cases h
    exact .inl ⟨rfl, rfl⟩
  | false =>
    refine .inr ⟨rfl, ?_⟩
    cases hp : s.phase with
    | idle =>
      cases hv : s.pins.reqValid with
      | false =>
        rw [step_quiet s hr hp hv] at h
        cases h
        exact ⟨s, .quiet hp hv, rfl⟩
      | true =>
        have ha : s.accepts = true := by simp [State.accepts, State.reqReady, hv, hp, hr]
        rw [step_accept s ha] at h
        obtain ⟨u, hu, rfl⟩ := clocked_eq_next h
        exact ⟨u, .accept u ha hu, rfl⟩
    | send =>
      rw [step_send s hr hp] at h
      obtain ⟨u, hu, rfl⟩ := clocked_eq_next h
      refine ⟨u, ?_, rfl⟩
      rcases sendByte_cases s.fbuf s with ⟨_, he⟩ | ⟨hb, hx, he⟩ | ⟨hb, hx, he⟩ | ⟨hb, hx, he⟩ <;> rw [he] at hu <;>
        cases hu
      · exact .stall hp hb hx
      · exact .byte hp hb hx
      · exact .lastByte hp hb hx
    | bootw =>
      rw [step_bootw s hr hp] at h
      obtain ⟨u, hu, rfl⟩ := clocked_eq_next h
      refine ⟨u, ?_, rfl⟩
      obtain ⟨n, hn, rfl⟩ | ⟨ht, he⟩ := waitCycle_eq_next hu
      · exact .count n (.inl hp) hn
      · cases he; exact .bootEnd hp ht
    | settle =>
      rw [step_settle s hr hp] at h
      obtain ⟨u, hu, rfl⟩ := clocked_eq_next h
      refine ⟨u, ?_, rfl⟩
      obtain ⟨n, hn, rfl⟩ | ⟨ht, he⟩ := waitCycle_eq_next hu
      · exact .count n (.inr (.inl hp)) hn
      · unfold settleExit at he
        split_ifs at he with h0 h1 h2 <;> cases he
        · exact .settleEndOperation hp ht h0
        · exact .settleEndReset hp ht h1
        · exact .settleEndInit hp ht h2
    | rstw =>
      rw [step_rstw s hr hp] at h
      obtain ⟨u, hu, rfl⟩ := clocked_eq_next h
      refine ⟨u, ?_, rfl⟩
      obtain ⟨n, hn, rfl⟩ | ⟨ht, he⟩ := waitCycle_eq_next hu
      · exact .count n (.inr (.inr hp)) hn
      · cases he; exact .resetWaitEnd hp ht
    | done =>
      rw [step_done s hr hp] at h
      obtain ⟨u, hu, rfl⟩ := clocked_eq_next h
      cases hu
      exact ⟨_, .done hp, rfl⟩
    | unused6 =>
      simp [step, hr, fetch, fetchWord, hp, sequencerCycle, clocked] at h
    | unused7 =>
      simp [step, hr, fetch, fetchWord, hp, sequencerCycle, clocked] at h

/-- No cycle without `rst` changes the parameters, the pins or the clock's fields; the clock edge changes the
latter two only. -/
theorem Cycle.environment {s u : State} (h : Cycle s u) :
    u.params = s.params ∧ u.pins = s.pins ∧ u.upcoming = s.upcoming ∧ u.cycle = s.cycle := by
  cases h with
  | accept u ha he =>
    obtain ⟨t, ht, hs⟩ := exec_request s.request (decodeReq_isRequest _) s
    rw [he] at ht
    cases ht
    cases hs <;> exact ⟨rfl, rfl, rfl, rfl⟩
  | _ => exact ⟨rfl, rfl, rfl, rfl⟩

end Sys2Proof.Machine
end

