-- ==== Sys2Proof/Laws/Run.lean ====
section
/-! SUPPORT. Spans of cycles and runs, said once: `runCycles` cut in two, the inputs along a span, and the inversion of
one cycle of a run (`serve_succ`). -/

namespace Sys2Proof.Machine

/-! ## Spans of cycles -/

@[simp] theorem runCycles_zero (s : State) : runCycles 0 s = .next s := rfl

theorem runCycles_succ {s u : State} (n : Nat) (h : step s = .next u) : runCycles (n + 1) s = runCycles n u := by
  simp [runCycles, h]

/-- A span of at least one cycle begins with a step. -/
theorem runCycles_succ_inv {s t : State} {n : Nat} (h : runCycles (n + 1) s = .next t) :
    ∃ u, step s = .next u ∧ runCycles n u = .next t := by
  unfold runCycles at h
  split at h
  · exact ⟨_, ‹_›, h⟩
  · cases h
  · cases h

theorem runCycles_add {s u : State} {a : Nat} (b : Nat) (h : runCycles a s = .next u) :
    runCycles (a + b) s = runCycles b u := by
  induction a generalizing s with
  | zero => cases h; simp
  | succ a ih =>
    obtain ⟨v, hv, hu⟩ := runCycles_succ_inv h
    rw [Nat.add_right_comm, runCycles_succ _ hv, ih hu]

/-- What a step does to the inputs: they move on by one cycle. -/
theorem step_environment {s t : State} (h : step s = .next t) :
    t.params = s.params ∧ ∀ n, t.pinsAt n = s.pinsAt (n + 1) := by
  rcases step_cases h with ⟨_, rfl⟩ | ⟨_, u, hc, rfl⟩
  · exact ⟨rfl, fun n => by rw [State.tick_pinsAt]; rfl⟩
  · obtain ⟨hp, hi, hu, hc⟩ := hc.environment
    refine ⟨hp, fun n => ?_⟩
    rw [State.tick_pinsAt]
    simp [State.pinsAt, hu, hc]

theorem runCycles_environment {s u : State} {k : Nat} (h : runCycles k s = .next u) :
    u.params = s.params ∧ ∀ n, u.pinsAt n = s.pinsAt (k + n) := by
  induction k generalizing s with
  | zero => cases h; simp
  | succ k ih =>
    obtain ⟨v, hv, hu⟩ := runCycles_succ_inv h
    obtain ⟨hp, hn⟩ := step_environment hv
    obtain ⟨hp', hn'⟩ := ih hu
    exact ⟨hp'.trans hp, fun n => by rw [hn', hn]; congr 1; omega⟩

/-! ## Runs -/

/-- What a cycle of a run can be: the program's next operation is accepted; or none is, and then an operation is in
progress or there is one left to issue. -/
theorem issue_cases {s : State} {todo rest : List Instr} (h : s.issue todo = some rest) :
    s.pins.rst = false ∧
      ((s.accepts = true ∧ todo = s.request :: rest) ∨
        (s.accepts = false ∧ rest = todo ∧ (s.phase ≠ .idle ∨ todo ≠ []))) := by
  unfold State.issue at h
  split_ifs at h with hr ha hp
  · refine ⟨by simpa using hr, .inl ⟨ha, ?_⟩⟩
    split at h
    · cases h
    · split_ifs at h with hi
      cases h
      rw [hi]
  · cases h
    exact ⟨by simpa using hr, .inr ⟨by simpa using ha, rfl, by tauto⟩⟩

theorem serve_zero {todo : List Instr} {s t : State} : serve 0 todo s = some t ↔ todo = [] ∧ s.final ∧ t = s := by
  rw [serve]
  by_cases h : todo = [] ∧ s.final
  · rw [if_pos h]
    exact ⟨fun e => (by cases e; exact ⟨h.1, h.2, rfl⟩), fun e => by rw [e.2.2]⟩
  · rw [if_neg h]
    exact ⟨fun e => (nomatch e), fun e => absurd ⟨e.1, e.2.1⟩ h⟩

/-- A run that is not over in this cycle: the cycle has its place in the run, and the run goes on after its step. -/
theorem serve_succ {n : Nat} {todo : List Instr} {s t : State} :
    serve (n + 1) todo s = some t ↔
      ∃ rest u, s.issue todo = some rest ∧ step s = .next u ∧ serve n rest u = some t := by
  rw [serve]
  cases s.issue todo <;> cases step s <;> simp

/-- The cycle in which a run is over has no place in a run that goes on. -/
theorem issue_of_final {s : State} (h : s.final) : s.issue [] = none := by
  simp [State.issue, State.accepts, h.1, h.2.1, h.2.2]

end Sys2Proof.Machine
end

