-- ==== Sys2Proof/Tests/Slice0.lean ====
section
/-! SUPPORT. Tests of the model on vectors of spec/95_test_vectors.md (their names stand in the docstrings), and for
every statement with hypotheses a witness that meets them. -/

namespace Sys2Proof.Tests

open Sys2Proof.Machine

/-! ## Well-formedness: each check refuses an ill-formed term -/

/-- The checksum of each frame is checked against the frame's own command: V2's checksums are accepted, V2's
checksum of another row refused (30_encoding.md R71). -/
theorem test_wellFormed_checksum :
    (Instr.framePlay 0 1 0xFEF7).wellFormed = true ∧ (Instr.framePlay 0 1 0xFEF8).wellFormed = false ∧
    (Instr.framePause 0 0 0xFEED).wellFormed = true ∧ (Instr.framePause 0 0 0xFEEE).wellFormed = false ∧
    (Instr.frameNext 0 0 0xFEFA).wellFormed = true ∧ (Instr.frameNext 0 0 0xFEF9).wellFormed = false ∧
    (Instr.framePrev 0 0 0xFEF9).wellFormed = true ∧ (Instr.framePrev 0 0 0xFEFA).wellFormed = false ∧
    (Instr.frameSetVolume 0 20 0xFEE1).wellFormed = true ∧ (Instr.frameSetVolume 0 20 0xFFDB).wellFormed = false ∧
    (Instr.framePlayFromFolder 1 1 0xFEEA).wellFormed = true ∧
    (Instr.framePlayFromFolder 1 2 0xFEEA).wellFormed = false ∧
    (Instr.frameStop 0 0 0xFEE5).wellFormed = true ∧ (Instr.frameStop 1 0 0xFEE5).wellFormed = false ∧
    (Instr.frameReset 0 0 0xFEEF).wellFormed = true ∧ (Instr.frameReset 0 0 0xEFFE).wellFormed = false ∧
    (Instr.frameQueryStatus 0 0 0xFEB9).wellFormed = true ∧
    (Instr.frameQueryStatus 0 0 0).wellFormed = false := by decide

/-- Every request is well formed, whatever its argument (60_exceptions.md R170). -/
theorem test_wellFormed_request :
    (Instr.setvol 0xFFFF).wellFormed = true ∧ (Instr.reservedE 0xFFFF).wellFormed = true := by decide

/-- The parameter rules of 30_encoding.md R68, each refused once: a volume of 31, a high byte under SetVolume, a
parameter under each of the five plain commands, QueryStatus at all. The checksums are right in every term. -/
theorem test_emittable_refusals :
    (Instr.frameSetVolume 0 30 0xFED7).emittable = true ∧ (Instr.frameSetVolume 0 31 0xFED6).emittable = false ∧
    (Instr.frameSetVolume 1 20 0xFEE0).emittable = false ∧ (Instr.framePause 0 1 0xFEEC).emittable = false ∧
    (Instr.frameNext 1 0 0xFEF9).emittable = false ∧ (Instr.framePrev 0 1 0xFEF8).emittable = false ∧
    (Instr.frameStop 0 1 0xFEE4).emittable = false ∧ (Instr.frameReset 1 0 0xFEEE).emittable = false ∧
    (Instr.frameQueryStatus 0 0 0xFEB9).emittable = false ∧ (Instr.framePlay 0x7E 0xEF 0xFD8B).emittable = true ∧
    (Instr.framePlayFromFolder 0x7E 0x7E 0xFDF0).emittable = true ∧ (Instr.framePlay 0 1 0).emittable = false := by
  decide

/-! ## Decoding -/

/-- The sixteen opcodes, bit by bit from 30_encoding.md R60 and R61: `op` in bits 19 to 16, then the argument. -/
theorem test_decode_requests :
    decodeReq 0b00001011111011101111#20 = .init 0xBEEF ∧ decodeReq 0b00010000000000000001#20 = .isonline 1 ∧
    decodeReq 0b00101111111111111011#20 = .setvol 0xFFFB ∧ decodeReq 0b00111010101010101010#20 = .getvol 0xAAAA ∧
    decodeReq 0b01000000000100000000#20 = .playtrk 0x0100 ∧
    decodeReq 0b01010000001000000011#20 = .playfld 2 3 ∧
    decodeReq 0b01100000000000000000#20 = .pause 0 ∧ decodeReq 0b01110000000000000001#20 = .resume 1 ∧
    decodeReq 0b10001101111010101101#20 = .stop 0xDEAD ∧ decodeReq 0b10011011111011101111#20 = .next 0xBEEF ∧
    decodeReq 0b10100101101001011010#20 = .prev 0x5A5A ∧ decodeReq 0b10110000000000011110#20 = .volup 0x1E ∧
    decodeReq 0b11001111111111111111#20 = .voldn 0xFFFF ∧ decodeReq 0b11010000000000000001#20 = .reservedD 1 ∧
    decodeReq 0b11101111111111111111#20 = .reservedE 0xFFFF ∧
    decodeReq 0b11110001001000110100#20 = .reservedF 0x1234 := by decide

/-- The nine frames, byte by byte from V2 (and 30_encoding.md R64). -/
theorem test_decode_frames :
    (decodeBytes [0x7E, 0xFF, 0x06, 0x03, 0x00, 0x00, 0x01, 0xFE, 0xF7, 0xEF]).toOption =
      some (.framePlay 0 1 0xFEF7) ∧
    (decodeBytes [0x7E, 0xFF, 0x06, 0x0E, 0x00, 0x00, 0x00, 0xFE, 0xED, 0xEF]).toOption =
      some (.framePause 0 0 0xFEED) ∧
    (decodeBytes [0x7E, 0xFF, 0x06, 0x01, 0x00, 0x00, 0x00, 0xFE, 0xFA, 0xEF]).toOption =
      some (.frameNext 0 0 0xFEFA) ∧
    (decodeBytes [0x7E, 0xFF, 0x06, 0x02, 0x00, 0x00, 0x00, 0xFE, 0xF9, 0xEF]).toOption =
      some (.framePrev 0 0 0xFEF9) ∧
    (decodeBytes [0x7E, 0xFF, 0x06, 0x06, 0x00, 0x00, 0x14, 0xFE, 0xE1, 0xEF]).toOption =
      some (.frameSetVolume 0 20 0xFEE1) ∧
    (decodeBytes [0x7E, 0xFF, 0x06, 0x0F, 0x00, 0x01, 0x01, 0xFE, 0xEA, 0xEF]).toOption =
      some (.framePlayFromFolder 1 1 0xFEEA) ∧
    (decodeBytes [0x7E, 0xFF, 0x06, 0x16, 0x00, 0x00, 0x00, 0xFE, 0xE5, 0xEF]).toOption =
      some (.frameStop 0 0 0xFEE5) ∧
    (decodeBytes [0x7E, 0xFF, 0x06, 0x0C, 0x00, 0x00, 0x00, 0xFE, 0xEF, 0xEF]).toOption =
      some (.frameReset 0 0 0xFEEF) ∧
    (decodeBytes [0x7E, 0xFF, 0x06, 0x42, 0x00, 0x00, 0x00, 0xFE, 0xB9, 0xEF]).toOption =
      some (.frameQueryStatus 0 0 0xFEB9) := by decide

/-- The name with which a frame is rejected. -/
def rejection (bs : List Byte) : Option DecodeError :=
  match decodeBytes bs with
  | .ok _ => none
  | .error e => some e

/-- Every rejection by name: each fixed byte (30_encoding.md R64), an undefined command (V1's `FF`, R69), and the
frame cut short of V9 (R72). -/
theorem test_decode_rejections :
    rejection [0x7F, 0xFF, 0x06, 0x03, 0x00, 0x00, 0x01, 0xFE, 0xF7, 0xEF] = some (.badStart 0x7F) ∧
    rejection [0x7E, 0xFE, 0x06, 0x03, 0x00, 0x00, 0x01, 0xFE, 0xF7, 0xEF] = some (.badVersion 0xFE) ∧
    rejection [0x7E, 0xFF, 0x07, 0x03, 0x00, 0x00, 0x01, 0xFE, 0xF7, 0xEF] = some (.badLength 0x07) ∧
    rejection [0x7E, 0xFF, 0x06, 0x06, 0x01, 0x00, 0x14, 0xFE, 0xE0, 0xEF] = some (.badFeedback 0x01) ∧
    rejection [0x7E, 0xFF, 0x06, 0x03, 0x00, 0x00, 0x01, 0xFE, 0xF7, 0xEE] = some (.badEnd 0xEE) ∧
    rejection [0x7E, 0xFF, 0x06, 0xFF, 0x00, 0xFF, 0xFF, 0xFB, 0xFE, 0xEF] = some (.undefinedCommand 0xFF) ∧
    rejection [0x7E, 0xFF, 0x06, 0x03, 0x00, 0x00, 0x01, 0xFE, 0xF7] = some (.notTenBytes 9) := by decide

/-- The opcode table's numbering: a request has 20 bits (or 24 with four zeros above), a frame 80 with byte 0 most
significant, as the table's own match constants have it; other lengths are no row. -/
theorem test_decodeTableWord :
    decodeTableWord 20 0x20014 = some (.setvol 20) ∧ decodeTableWord 24 0xF1234 = some (.reservedF 0x1234) ∧
    decodeTableWord 24 0x120014 = none ∧ decodeTableWord 32 0x20014 = none ∧
    decodeTableWord 80 0x7EFF06030000000000EF = some (.framePlay 0 0 0) ∧
    decodeTableWord 80 0x7EFF06420000000000EF = some (.frameQueryStatus 0 0 0) ∧ decodeTableWord 80 0 = none := by
  decide

/-- The examples of 30_encoding.md R73, and lines out of range or with the wrong number of operands. -/
theorem test_assemble :
    assemble ⟨"SETVOL", [20]⟩ = some 0x20014 ∧ assemble ⟨"PLAYFLD", [2, 3]⟩ = some 0x50203 ∧
    assemble ⟨"SETVOL", [-5]⟩ = some 0x2FFFB ∧ assemble ⟨"VOLDN", []⟩ = some 0xC0000 ∧
    assemble ⟨"SETVOL", [32768]⟩ = none ∧ assemble ⟨"PLAYFLD", [256, 0]⟩ = none ∧ assemble ⟨"PAUSE", [1]⟩ = none := by
  decide

/-! ## The encoder -/

/-- The ten bytes of a frame as numbers. -/
def numbers (f : BitVec 80) : List Nat := (frameBytes f).map BitVec.toNat

/-- V1: the smallest and the largest sum, a checksum with low byte 0, the corrected worked frame (S5, C1). -/
theorem test_encode_v1 :
    numbers (encodeFrame 0x00 0x00 0x00) = [0x7E, 0xFF, 0x06, 0x00, 0x00, 0x00, 0x00, 0xFE, 0xFB, 0xEF] ∧
    numbers (encodeFrame 0xFF 0xFF 0xFF) = [0x7E, 0xFF, 0x06, 0xFF, 0x00, 0xFF, 0xFF, 0xFB, 0xFE, 0xEF] ∧
    numbers (encodeFrame 0xFB 0x00 0x00) = [0x7E, 0xFF, 0x06, 0xFB, 0x00, 0x00, 0x00, 0xFE, 0x00, 0xEF] ∧
    numbers (encodeFrame 0x06 0x00 0x14) = [0x7E, 0xFF, 0x06, 0x06, 0x00, 0x00, 0x14, 0xFE, 0xE1, 0xEF] ∧
    numbers (encodeFrame 0x03 0xFF 0xFC) = [0x7E, 0xFF, 0x06, 0x03, 0x00, 0xFF, 0xFC, 0xFC, 0xFD, 0xEF] := by decide

/-- V9: which ten bytes are a frame of this protocol. -/
theorem test_validFrame :
    validFrame [0x7E, 0xFF, 0x06, 0x06, 0x00, 0x00, 0x14, 0xFE, 0xE1, 0xEF] = true ∧
    validFrame [0x7E, 0xFF, 0x06, 0x06, 0x00, 0x00, 0x14, 0xFF, 0xDB, 0xEF] = false ∧
    validFrame [0x7E, 0xFF, 0x06, 0x06, 0x00, 0x00, 0x14, 0xE1, 0xFE, 0xEF] = false ∧
    validFrame [0x7E, 0xFF, 0x06, 0x06, 0x01, 0x00, 0x14, 0xFE, 0xE0, 0xEF] = false ∧
    validFrame [0x7E, 0xFF, 0x06, 0x03, 0x00, 0x00, 0x01, 0xFE, 0xF7] = false := by decide

/-- The two examples of 00_scope.md R7 for the width of the delay counter. -/
theorem test_tmrw : tmrw ⟨1, false⟩ = 10 ∧ tmrw ⟨16000, false⟩ = 24 := by decide

/-! ## The requests -/

/-- One cycle a millisecond, as in part 3 of 95_test_vectors.md, and the default of D12. -/
def oneMs : Params := ⟨1, false⟩

/-- The other value of `STEP_AT_LIMIT_SENDS`. -/
def oneMsSends : Params := ⟨1, true⟩

/-- A request on the pins, the sink ready. -/
def asks (op : BitVec 4) (arg : Half) : Pins := ⟨false, true, op, arg, true⟩

/-- No request, the sink ready. -/
def quiet : Pins := ⟨false, false, 0, 0, true⟩

/-- No request, the sink stalling. -/
def stalls : Pins := ⟨false, false, 0, 0, false⟩

/-- The reset state with these parameters, registers and pins. -/
def machine (p : Params) (vol : BitVec 5) (online : Bool) (ph : Phase) (pins : Pins) : State where
  vol := vol
  online := online
  phase := ph
  initStg := 0
  fbuf := 0
  bidx := 0
  tmr := 0
  rval := 0
  trace := []
  params := p
  pins := pins
  upcoming := []
  cycle := 0

/-- An idle machine with no request. -/
def idle (vol : BitVec 5) (online : Bool) : State := machine oneMs vol online .idle quiet

/-- What an accept cycle leaves: the volume, the phase, the frame's bytes, the return register. -/
structure Left where
  vol : BitVec 5
  phase : Phase
  frame : List Nat
  rval : Byte
deriving DecidableEq, Repr

/-- What an accept cycle left. -/
def left (a : Answer) : Option Left :=
  match a with
  | .next s => some ⟨s.vol, s.phase, numbers s.fbuf, s.rval⟩
  | .fault _ => none
  | .refused _ => none

/-- A frame that is being sent, beside the volume. -/
def sending (vol : BitVec 5) (f : List Nat) : Option Left := some ⟨vol, .send, f, 0⟩

/-- An operation that returns at once, `FBUF` as it was. -/
def returning (vol : BitVec 5) (v : Byte) : Option Left := some ⟨vol, .done, numbers 0, v⟩

/-- V6 and T3: INIT begins the boot wait, 500 cycles, `INITSTG` 1. -/
theorem test_init : (match exec (.init 0) (idle 20 false) with
    | .next s => some (s.phase, s.tmr, s.initStg, s.online, s.vol)
    | .fault _ => none
    | .refused _ => none) = some (.bootw, 500, 1, false, 20) := by decide

theorem test_isonline : left (exec (.isonline 0) (idle 20 false)) = returning 20 0 ∧
    left (exec (.isonline 1) (idle 12 true)) = returning 12 1 := by decide

/-- V4, start state (7, 1): -32768, -1, 31, 256 and 7. -/
theorem test_setvol :
    left (exec (.setvol 0x8000) (idle 7 true)) =
      sending 0 [0x7E, 0xFF, 0x06, 0x06, 0x00, 0x00, 0x00, 0xFE, 0xF5, 0xEF] ∧
    left (exec (.setvol 0xFFFF) (idle 7 true)) =
      sending 0 [0x7E, 0xFF, 0x06, 0x06, 0x00, 0x00, 0x00, 0xFE, 0xF5, 0xEF] ∧
    left (exec (.setvol 0x001F) (idle 7 true)) =
      sending 30 [0x7E, 0xFF, 0x06, 0x06, 0x00, 0x00, 0x1E, 0xFE, 0xD7, 0xEF] ∧
    left (exec (.setvol 0x0100) (idle 7 true)) =
      sending 30 [0x7E, 0xFF, 0x06, 0x06, 0x00, 0x00, 0x1E, 0xFE, 0xD7, 0xEF] ∧
    left (exec (.setvol 0x0007) (idle 7 true)) =
      sending 7 [0x7E, 0xFF, 0x06, 0x06, 0x00, 0x00, 0x07, 0xFE, 0xEE, 0xEF] := by decide

theorem test_getvol : left (exec (.getvol 0) (idle 20 false)) = returning 20 0x14 ∧
    left (exec (.getvol 0xAAAA) (idle 12 true)) = returning 12 0x0C := by decide

/-- V6 and S6: tracks 300 and 256. -/
theorem test_playtrk :
    left (exec (.playtrk 0x012C) (idle 20 false)) =
      sending 20 [0x7E, 0xFF, 0x06, 0x03, 0x00, 0x01, 0x2C, 0xFE, 0xCB, 0xEF] ∧
    left (exec (.playtrk 0x0100) (idle 20 false)) =
      sending 20 [0x7E, 0xFF, 0x06, 0x03, 0x00, 0x01, 0x00, 0xFE, 0xF7, 0xEF] := by decide

theorem test_playfld :
    left (exec (.playfld 99 255) (idle 20 false)) =
      sending 20 [0x7E, 0xFF, 0x06, 0x0F, 0x00, 0x63, 0xFF, 0xFD, 0x8A, 0xEF] := by decide

/-- V6: the five operations without an operand; S8: RESUME sends what PAUSE sends. -/
theorem test_plain_requests :
    left (exec (.pause 0) (idle 20 false)) =
      sending 20 [0x7E, 0xFF, 0x06, 0x0E, 0x00, 0x00, 0x00, 0xFE, 0xED, 0xEF] ∧
    left (exec (.resume 0) (idle 20 false)) =
      sending 20 [0x7E, 0xFF, 0x06, 0x0E, 0x00, 0x00, 0x00, 0xFE, 0xED, 0xEF] ∧
    left (exec (.stop 0) (idle 20 false)) =
      sending 20 [0x7E, 0xFF, 0x06, 0x16, 0x00, 0x00, 0x00, 0xFE, 0xE5, 0xEF] ∧
    left (exec (.next 0) (idle 20 false)) =
      sending 20 [0x7E, 0xFF, 0x06, 0x01, 0x00, 0x00, 0x00, 0xFE, 0xFA, 0xEF] ∧
    left (exec (.prev 0) (idle 20 false)) =
      sending 20 [0x7E, 0xFF, 0x06, 0x02, 0x00, 0x00, 0x00, 0xFE, 0xF9, 0xEF] := by decide

/-- V5: VOLUP at 29 and at 30; with the parameter of P5 the limit is sent again. -/
theorem test_volup :
    left (exec (.volup 0) (idle 29 true)) =
      sending 30 [0x7E, 0xFF, 0x06, 0x06, 0x00, 0x00, 0x1E, 0xFE, 0xD7, 0xEF] ∧
    left (exec (.volup 0) (idle 30 true)) = returning 30 0 ∧
    left (exec (.volup 0) (machine oneMsSends 30 true .idle quiet)) =
      sending 30 [0x7E, 0xFF, 0x06, 0x06, 0x00, 0x00, 0x1E, 0xFE, 0xD7, 0xEF] := by decide

/-- V5: VOLDN at 1 and at 0; with the parameter of P5 the limit is sent again. -/
theorem test_voldn :
    left (exec (.voldn 0) (idle 1 true)) =
      sending 0 [0x7E, 0xFF, 0x06, 0x06, 0x00, 0x00, 0x00, 0xFE, 0xF5, 0xEF] ∧
    left (exec (.voldn 0) (idle 0 true)) = returning 0 0 ∧
    left (exec (.voldn 0) (machine oneMsSends 0 true .idle quiet)) =
      sending 0 [0x7E, 0xFF, 0x06, 0x06, 0x00, 0x00, 0x00, 0xFE, 0xF5, 0xEF] := by decide

theorem test_reserved :
    left (exec (.reservedD 1) (idle 12 true)) = returning 12 0 ∧
    left (exec (.reservedE 0xFFFF) (idle 12 true)) = returning 12 0 ∧
    left (exec (.reservedF 0xFFFF) (idle 12 true)) = returning 12 0 := by decide

/-- The frame of V3 as events. -/
def frameOf (bs : List Byte) : List Event := bs.map .tx

/-- V6 at the abstract level: INIT's whole trace, in the order of S9. -/
theorem test_perform_init :
    perform oneMs (.init 0) ⟨20, false⟩ =
      (⟨20, true⟩,
        [.wait 500] ++ frameOf [0x7E, 0xFF, 0x06, 0x0C, 0x00, 0x00, 0x00, 0xFE, 0xEF, 0xEF] ++
          [.wait 30, .wait 1000] ++ frameOf [0x7E, 0xFF, 0x06, 0x06, 0x00, 0x00, 0x14, 0xFE, 0xE1, 0xEF] ++
          [.wait 30, .ret 0]) := by decide

/-- V6 at the abstract level: VOLUP from 20. -/
theorem test_perform_volup :
    perform oneMs (.volup 0) ⟨20, false⟩ =
      (⟨21, false⟩, frameOf [0x7E, 0xFF, 0x06, 0x06, 0x00, 0x00, 0x15, 0xFE, 0xE0, 0xEF] ++ [.wait 30, .ret 0]) := by
  decide

/-! ## The frames in `SEND` -/

/-- A machine that sends a frame, at byte `k`, to a sink. -/
def sends (f : BitVec 80) (k : BitVec 4) (pins : Pins) : State :=
  { machine oneMs 20 false .send pins with fbuf := f, bidx := k }

/-- What a `SEND` cycle leaves: the events, the index, the phase, the timer. -/
structure Sent where
  trace : List Event
  bidx : BitVec 4
  phase : Phase
  tmr : Nat
deriving DecidableEq, Repr

/-- What a `SEND` cycle left. -/
def sent (a : Answer) : Option Sent :=
  match a with
  | .next s => some ⟨s.trace, s.bidx, s.phase, s.tmr⟩
  | .fault _ => none
  | .refused _ => none

/-- Byte 3 of each frame of V2 is its command byte (S12), and the next byte is number 4. -/
theorem test_frames_byte_3 :
    sent (exec (.framePlay 0 1 0xFEF7) (sends 0 3 quiet)) = some ⟨[.tx 0x03], 4, .send, 0⟩ ∧
    sent (exec (.framePause 0 0 0xFEED) (sends 0 3 quiet)) = some ⟨[.tx 0x0E], 4, .send, 0⟩ ∧
    sent (exec (.frameNext 0 0 0xFEFA) (sends 0 3 quiet)) = some ⟨[.tx 0x01], 4, .send, 0⟩ ∧
    sent (exec (.framePrev 0 0 0xFEF9) (sends 0 3 quiet)) = some ⟨[.tx 0x02], 4, .send, 0⟩ ∧
    sent (exec (.frameSetVolume 0 20 0xFEE1) (sends 0 3 quiet)) = some ⟨[.tx 0x06], 4, .send, 0⟩ ∧
    sent (exec (.framePlayFromFolder 1 1 0xFEEA) (sends 0 3 quiet)) = some ⟨[.tx 0x0F], 4, .send, 0⟩ ∧
    sent (exec (.frameStop 0 0 0xFEE5) (sends 0 3 quiet)) = some ⟨[.tx 0x16], 4, .send, 0⟩ ∧
    sent (exec (.frameReset 0 0 0xFEEF) (sends 0 3 quiet)) = some ⟨[.tx 0x0C], 4, .send, 0⟩ ∧
    sent (exec (.frameQueryStatus 0 0 0xFEB9) (sends 0 3 quiet)) = some ⟨[.tx 0x42], 4, .send, 0⟩ := by decide

/-- T2: a stalled byte 8 (`F7`) is held; taken, it is followed by byte 9, and byte 9 (`EF`) by 30 cycles of `SETTLE`. -/
theorem test_frame_stall_and_end :
    sent (exec (.framePlay 1 0 0xFEF7) (sends 0 8 stalls)) = some ⟨[], 8, .send, 0⟩ ∧
    sent (exec (.framePlay 1 0 0xFEF7) (sends 0 8 quiet)) = some ⟨[.tx 0xF7], 9, .send, 0⟩ ∧
    sent (exec (.framePlay 1 0 0xFEF7) (sends 0 9 quiet)) = some ⟨[.tx 0xEF], 9, .settle, 30⟩ := by decide

/-! ## The step -/

/-- A row of the timelines: `PHASE`, `INITSTG`, `BIDX`, `TMR`, `VOL`, `ONLINE` and the events so far. -/
structure Row where
  phase : Phase
  initStg : BitVec 2
  bidx : BitVec 4
  tmr : Nat
  vol : BitVec 5
  online : Bool
  trace : List Event
deriving DecidableEq, Repr

/-- The row of the next cycle. -/
def row (a : Answer) : Option Row :=
  match a with
  | .next s => some ⟨s.phase, s.initStg, s.bidx, s.tmr, s.vol, s.online, s.trace⟩
  | .fault _ => none
  | .refused _ => none

/-- T1, cycle 2: VOLUP is accepted; `VOL` reads 21 in cycle 3. -/
theorem test_step_accept : row (step (machine oneMs 20 false .idle (asks 0xB 0))) =
    some ⟨.send, 0, 0, 0, 21, false, []⟩ := by decide

/-- T4, cycle 6: `rst` while byte 4 is on offer; the byte is not taken and cycle 7 is the reset state. -/
theorem test_step_rst :
    row (step { sends 0x7EFF0606000005FEF0EF 4 quiet with vol := 5, pins := { quiet with rst := true } }) =
      some ⟨.idle, 0, 0, 0, 20, false, []⟩ := by decide

/-- T3, cycles 501, 541, 1541 and 1581: the ends of INIT's four waits. -/
theorem test_step_wait_ends :
    row (step { machine oneMs 20 false .bootw quiet with initStg := 1, tmr := 1 }) =
      some ⟨.send, 1, 0, 1, 20, false, [.wait 500]⟩ ∧
    row (step { machine oneMs 20 false .settle quiet with initStg := 1, bidx := 9, tmr := 1 }) =
      some ⟨.rstw, 1, 9, 1000, 20, false, [.wait 30]⟩ ∧
    row (step { machine oneMs 20 false .rstw quiet with initStg := 1, bidx := 9, tmr := 1 }) =
      some ⟨.send, 2, 0, 1, 20, false, [.wait 1000]⟩ ∧
    row (step { machine oneMs 20 false .settle quiet with initStg := 2, bidx := 9, tmr := 1 }) =
      some ⟨.done, 0, 9, 1, 20, true, [.wait 30]⟩ := by decide

/-- T5, cycle 42: in `DONE` the return is given and the request on the pins is not looked at. -/
theorem test_step_done :
    row (step { machine oneMs 20 false .done (asks 0x1 0) with bidx := 9, tmr := 1 }) =
      some ⟨.idle, 0, 9, 1, 20, false, [.ret 0]⟩ := by decide

/-- A word placed with `withFetchWord` is what the next step runs: SETVOL 25 of V6, and the first byte of a frame. -/
theorem test_withFetchWord :
    row (step ((idle 20 false).withFetchWord 24 0x20019)) = some ⟨.send, 0, 0, 0, 25, false, []⟩ ∧
    row (step ((idle 20 false).withFetchWord 80 0x7EFF06030000000000EF)) =
      some ⟨.send, 0, 1, 0, 20, false, [.tx 0x7E]⟩ := by decide

/-- The outputs are forced to 0 while `rst` = 1 (10_state.md R32, 70_reset_and_hazards.md R190). -/
theorem test_outputs_under_rst :
    (machine oneMs 20 false .idle { quiet with rst := true }).reqReady = false ∧ (idle 20 false).reqReady = true ∧
    (sends 0 0 { quiet with rst := true }).txValid = false ∧ (sends 0 0 stalls).txValid = true ∧
    (machine oneMs 20 false .done { quiet with rst := true }).rspValid = false := by decide

/-! ## Witnesses: each statement's hypotheses are met -/

/-- A machine whose pins are `p` now and `quiet` in the next `n` cycles. -/
def steady (p : Pins) (n : Nat) (s : State) : State := { s with pins := p, upcoming := List.replicate n quiet }

theorem steady_pinsAt (p : Pins) (n k : Nat) (s : State) (h : k < n) : (steady p n s).pinsAt (k + 1) = quiet := by
  simp [State.pinsAt, steady, h]

theorem steady_noReset (p : Pins) (n : Nat) (s : State) (hp : p.rst = false) : NoReset (steady p n s) (n + 1) := by
  intro k hk
  cases k with
  | zero => exact hp
  | succ k => rw [steady_pinsAt p n k s (by omega)]; rfl

theorem steady_takesTen (p : Pins) (n a : Nat) (s : State) (h : a + 10 ≤ n) : TakesTen (steady p n s) (a + 1) 10 := by
  refine ⟨by decide, ?_, ?_⟩
  · have hall : ∀ k ∈ List.range 10, ((steady p n s).pinsAt (a + 1 + k)).txReady = true := by
      intro k hk
      rw [List.mem_range] at hk
      rw [show a + 1 + k = (a + k) + 1 by omega, steady_pinsAt p n _ s (by omega)]
      rfl
    rw [readyCount, List.countP_eq_length.2 hall, List.length_range]
  · rw [show a + 1 + 10 - 1 = (a + 9) + 1 by omega, steady_pinsAt p n _ s (by omega)]; rfl

/-- A machine that sends the Play frame of V2, at byte `k`. -/
def sendsPlay (k : BitVec 4) (pins : Pins) : State := sends 0x7EFF0603000001FEF7EF k pins

/-- A machine in a wait phase. -/
def waits (ph : Phase) (stage : BitVec 2) (n : Nat) : State :=
  { machine oneMs 20 false ph quiet with initStg := stage, bidx := 9, tmr := n }

theorem witness_EncodeOfDecode :
    decode (.req 0xFFFFF) = .ok (.reservedF 0xFFFF) ∧ decode (.frame 0x7EFF0603000001FEF7EF) = .ok (.framePlay 0 1 0xFEF7) :=
  ⟨rfl, rfl⟩

/-- Both ends of each operand's range. -/
theorem witness_AssembledLinesDecodeToTheirOperations :
    ((-32768 : Int) ≤ -32768 ∧ (-32768 : Int) ≤ 32767) ∧ ((0 : Int) ≤ 65535 ∧ (65535 : Int) ≤ 65535) ∧
    ((0 : Int) ≤ 255 ∧ (255 : Int) ≤ 255 ∧ (0 : Int) ≤ 0) := by decide

theorem witness_WellFormedFrameIffValidBytes :
    encode (.framePlay 0 1 0xFEF7) = .frame 0x7EFF0603000001FEF7EF ∧
    encode (.framePlay 0 1 0) = .frame 0x7EFF06030000010000EF := by decide

theorem witness_EncodeIsInjective : encodeFrame 0x03 0x00 0x01 = packFrame 0x03 0x00 0x01 0xFEF7 := by decide

theorem witness_VolupStepsUpOrStaysAtItsLimit :
    (idle 0 true).vol.toNat < 30 ∧ (idle 29 true).vol.toNat < 30 ∧
    (30 ≤ (machine oneMsSends 30 true .idle quiet).vol.toNat ∧
      (machine oneMsSends 30 true .idle quiet).params.stepAtLimitSends = true) ∧
    (30 ≤ (idle 30 true).vol.toNat ∧ (idle 30 true).params.stepAtLimitSends = false) := by decide

theorem witness_VoldnStepsDownOrStaysAtItsLimit :
    0 < (idle 30 true).vol.toNat ∧ 0 < (idle 1 true).vol.toNat ∧
    ((machine oneMsSends 0 true .idle quiet).vol.toNat = 0 ∧
      (machine oneMsSends 0 true .idle quiet).params.stepAtLimitSends = true) ∧
    ((idle 0 true).vol.toNat = 0 ∧ (idle 0 true).params.stepAtLimitSends = false) := by decide

/-- With a request of every opcode, and without one. -/
theorem witness_IdleCycleLoadsWhatTheRequestSays :
    ((idle 20 false).phase = .idle ∧ (idle 20 false).pins.rst = false ∧ (idle 20 false).pins.reqValid = false) ∧
    ∀ op : BitVec 4, (machine oneMs 20 false .idle (asks op 0)).phase = .idle ∧
      (machine oneMs 20 false .idle (asks op 0)).pins.rst = false ∧
      (machine oneMs 20 false .idle (asks op 0)).pins.reqValid = true ∧
      (machine oneMs 20 false .idle (asks op 0)).pins.reqOp = op :=
  ⟨⟨rfl, rfl, rfl⟩, fun _ => ⟨rfl, rfl, rfl, rfl⟩⟩

/-- GETVOL meets all premises at once: it writes no volume, begins no INIT and starts no frame. -/
theorem witness_RequestsLeaveTheRestUnchanged :
    (Instr.getvol 0).isRequest = true ∧ ∃ t, exec (.getvol 0) (idle 20 false) = .next t ∧
      (∀ a, Instr.getvol 0 ≠ .setvol a ∧ Instr.getvol 0 ≠ .volup a ∧ Instr.getvol 0 ≠ .voldn a) ∧
      (∀ a, Instr.getvol 0 ≠ .init a) ∧ t.phase ≠ .send := by
  refine ⟨rfl, _, rfl, fun a => ?_, fun a => ?_, ?_⟩ <;> simp [State.finish]

/-- Each of the nine frames has its fields, and bytes 0, 8 and 9 of Play are on offer at `BIDX` 0, 8 and 9. -/
theorem witness_FramesHandOverTheirBytes :
    (Instr.framePlay 0 1 0xFEF7).frameFields = some ⟨.play, 0, 1, 0xFEF7⟩ ∧
    (Instr.framePause 0 0 0xFEED).frameFields = some ⟨.pause, 0, 0, 0xFEED⟩ ∧
    (Instr.frameNext 0 0 0xFEFA).frameFields = some ⟨.next, 0, 0, 0xFEFA⟩ ∧
    (Instr.framePrev 0 0 0xFEF9).frameFields = some ⟨.prev, 0, 0, 0xFEF9⟩ ∧
    (Instr.frameSetVolume 0 20 0xFEE1).frameFields = some ⟨.setVolume, 0, 20, 0xFEE1⟩ ∧
    (Instr.framePlayFromFolder 1 1 0xFEEA).frameFields = some ⟨.playFromFolder, 1, 1, 0xFEEA⟩ ∧
    (Instr.frameStop 0 0 0xFEE5).frameFields = some ⟨.stop, 0, 0, 0xFEE5⟩ ∧
    (Instr.frameReset 0 0 0xFEEF).frameFields = some ⟨.reset, 0, 0, 0xFEEF⟩ ∧
    (Instr.frameQueryStatus 0 0 0xFEB9).frameFields = some ⟨.queryStatus, 0, 0, 0xFEB9⟩ ∧
    ∀ k ∈ [(0 : BitVec 4), 8, 9], ∃ b,
      [0x7E#8, 0xFF#8, 0x06#8, CommandCode.play.code, 0x00#8, 0#8, 1#8, (0xFEF7#16).extractLsb' 8 8,
        (0xFEF7#16).extractLsb' 0 8, 0xEF#8][(sendsPlay k quiet).bidx.toNat]? = some b := by
  refine ⟨rfl, rfl, rfl, rfl, rfl, rfl, rfl, rfl, rfl, ?_⟩
  intro k hk
  fin_cases hk <;> exact ⟨_, rfl⟩

theorem witness_FramesLeaveTheRestUnchanged :
    (Instr.framePlay 0 1 0xFEF7).isRequest = false ∧
    (∃ t, exec (.framePlay 0 1 0xFEF7) (sendsPlay 0 stalls) = .next t) ∧
    (∃ t, exec (.framePlay 0 1 0xFEF7) (sendsPlay 9 quiet) = .next t) := ⟨rfl, ⟨_, rfl⟩, ⟨_, rfl⟩⟩

theorem witness_StepRunsTheDecodedInstruction :
    ((machine oneMs 20 false .idle (asks 0x2 25)).phase = .idle ∧
      (machine oneMs 20 false .idle (asks 0x2 25)).pins.reqValid = true ∧
      (machine oneMs 20 false .idle (asks 0x2 25)).pins.rst = false ∧
      decode (.req (reqWord (machine oneMs 20 false .idle (asks 0x2 25)).pins.reqOp
        (machine oneMs 20 false .idle (asks 0x2 25)).pins.reqArg)) = .ok (.setvol 25)) ∧
    ((sendsPlay 3 quiet).phase = .send ∧ (sendsPlay 3 quiet).pins.rst = false ∧
      decode (.frame (sendsPlay 3 quiet).fbuf) = .ok (.framePlay 0 1 0xFEF7)) :=
  ⟨⟨rfl, rfl, rfl, rfl⟩, rfl, rfl, rfl⟩

theorem witness_SendCycleOffersOneByte :
    (∀ k ∈ [(0 : BitVec 4), 8], (sendsPlay k quiet).phase = .send ∧ (sendsPlay k quiet).pins.rst = false ∧
      (sendsPlay k quiet).bidx.toNat < 9 ∧ (sendsPlay k quiet).pins.txReady = true) ∧
    ((sendsPlay 9 quiet).bidx.toNat = 9 ∧ (sendsPlay 9 quiet).pins.txReady = true) ∧
    ((sendsPlay 9 stalls).bidx.toNat ≤ 9 ∧ (sendsPlay 9 stalls).pins.txReady = false) ∧
    ((steady quiet 9 (sendsPlay 0 quiet)).phase = .send ∧ (steady quiet 9 (sendsPlay 0 quiet)).bidx = 0 ∧
      NoReset (steady quiet 9 (sendsPlay 0 quiet)) 10 ∧
      ∀ k, k < 10 → ((steady quiet 9 (sendsPlay 0 quiet)).pinsAt k).txReady = true) :=
  ⟨by decide, by decide, by decide, rfl, rfl, steady_noReset _ _ _ rfl, by decide⟩

theorem witness_SettleCycleEndsByInitStage :
    ∀ p ∈ [((0 : BitVec 2), 2), (0, 1), (1, 1), (2, 1)],
      (waits .settle p.1 p.2).phase = .settle ∧ (waits .settle p.1 p.2).pins.rst = false ∧
      (waits .settle p.1 p.2).tmr = p.2 ∧ (waits .settle p.1 p.2).initStg = p.1 := by decide

theorem witness_LongWaitsEndInTheirFrames :
    ∀ p ∈ [(Phase.bootw, 2), (.bootw, 1), (.rstw, 2), (.rstw, 1)],
      (waits p.1 1 p.2).pins.rst = false ∧ (waits p.1 1 p.2).phase = p.1 ∧ (waits p.1 1 p.2).tmr = p.2 := by decide

theorem witness_DoneCycleReturns :
    (machine oneMs 20 false .done quiet).phase = .done ∧ (machine oneMs 20 false .done quiet).pins.rst = false ∧
    SameButRequestPins (machine oneMs 20 false .done quiet) (machine oneMs 20 false .done (asks 0x1 0)) :=
  ⟨rfl, rfl, true, 0x1, 0, rfl⟩

/-- A step in each phase, and under `rst`. -/
theorem witness_PhaseTransitionsAreThoseListed :
    (∃ t, step (idle 20 false) = .next t) ∧ (∃ t, step (machine oneMs 30 false .idle (asks 0xB 0)) = .next t) ∧
    (∃ t, step (waits .bootw 1 1) = .next t) ∧ (∃ t, step (sendsPlay 9 quiet) = .next t) ∧
    (∃ t, step (waits .settle 2 1) = .next t) ∧ (∃ t, step (waits .rstw 1 1000) = .next t) ∧
    (∃ t, step (machine oneMs 20 false .done quiet) = .next t) ∧
    (∃ t, step (machine oneMs 20 false .unused7 { quiet with rst := true }) = .next t) :=
  ⟨⟨_, rfl⟩, ⟨_, rfl⟩, ⟨_, rfl⟩, ⟨_, rfl⟩, ⟨_, rfl⟩, ⟨_, rfl⟩, ⟨_, rfl⟩, ⟨_, rfl⟩⟩

theorem witness_RstWinsOverEverything :
    (steady { quiet with rst := true } 1 (sendsPlay 4 quiet)).pins.rst = true ∧
    ∃ t, step (steady { quiet with rst := true } 1 (sendsPlay 4 quiet)) = .next t ∧ t.pins.rst = false :=
  ⟨rfl, _, rfl, rfl⟩

theorem witness_UnreachableCodesAreRefused :
    (machine oneMs 20 false .unused6 quiet).phase = .unused6 ∧ (machine oneMs 20 false .unused7 quiet).phase = .unused7 ∧
    (machine oneMs 20 false .unused6 quiet).pins.rst = false ∧
    ((sendsPlay 10 quiet).phase = .send ∧ 10 ≤ (sendsPlay 10 quiet).bidx.toNat) ∧
    ((waits .settle 3 1).phase = .settle ∧ (waits .settle 3 1).tmr = 1 ∧ (waits .settle 3 1).initStg = 3#2) ∧
    ((waits .bootw 1 0).phase = .bootw ∧ (waits .bootw 1 0).tmr = 0) ∧
    ((waits .settle 0 0).phase = .settle ∧ (waits .settle 0 0).tmr = 0) ∧
    ((waits .rstw 1 0).phase = .rstw ∧ (waits .rstw 1 0).tmr = 0) := by decide

/-- A state in `SEND` that meets the invariants, at its last byte. -/
theorem sendsPlay_inv : (sendsPlay 9 quiet).Inv where
  volume := by decide
  phase := by decide
  byteIndex := by decide
  initStage := by decide
  initStagePhase := fun h => absurd rfl h
  timer := fun n h => by cases h
  timerWidth := by decide
  frame := fun _ => ⟨0x03, by decide, 0x00, 0x01, by decide⟩

/-- A waiting state that meets the invariants, at the top of its timer. -/
theorem waits_inv : (waits .rstw 1 1000).Inv where
  volume := by decide
  phase := by decide
  byteIndex := by decide
  initStage := by decide
  initStagePhase := fun _ => rfl
  timer := fun n h => by cases h; decide
  timerWidth := by decide
  frame := fun h => by cases h

theorem sendsPlay_emitInv (k : BitVec 4) (p : Pins) : (sendsPlay k p).EmitInv where
  volume := (by decide : (20 : BitVec 5).toNat ≤ 30)
  frame := fun _ => ⟨.framePlay 0 1 0xFEF7, (rfl : decodeFrame 0x7EFF0603000001FEF7EF#80 = _), by decide⟩

theorem witness_StepKeepsTheInvariants :
    ((sendsPlay 9 quiet).Inv ∧ ∃ t, step (sendsPlay 9 quiet) = .next t) ∧
    ((waits .rstw 1 1000).Inv ∧ ∃ t, step (waits .rstw 1 1000) = .next t) :=
  ⟨⟨sendsPlay_inv, _, rfl⟩, waits_inv, _, rfl⟩

theorem witness_StepKeepsTheFrameEmittable :
    (sendsPlay 0 quiet).EmitInv ∧ ∃ t, step (sendsPlay 0 quiet) = .next t := ⟨sendsPlay_emitInv _ _, _, rfl⟩

theorem witness_OnlyIssuedCommandsAreSent : (sendsPlay 3 quiet).EmitInv ∧ (sendsPlay 3 quiet).phase = .send :=
  ⟨sendsPlay_emitInv _ _, rfl⟩

theorem witness_InvariantStatesNeverStop : (sendsPlay 9 quiet).Inv ∧ (waits .rstw 1 1000).Inv :=
  ⟨sendsPlay_inv, waits_inv⟩

theorem witness_OnlineRisesAtInitEndAndFallsByRst :
    (∃ t, step (waits .settle 2 1) = .next t ∧ t.online = true) ∧
    ∃ t, step (machine oneMs 20 true .idle { quiet with rst := true }) = .next t ∧ t.online = false :=
  ⟨⟨_, rfl, rfl⟩, _, rfl, rfl⟩

theorem witness_VolIsWrittenByVolumeRequestsAndRst :
    (∃ t, step (machine oneMs 7 true .idle (asks 0x2 31)) = .next t) ∧
    (∃ t, step (machine oneMs 29 true .idle (asks 0xB 0)) = .next t) ∧
    (∃ t, step (machine oneMs 30 true .idle (asks 0xB 0)) = .next t) ∧
    (∃ t, step (machine oneMs 0 true .idle (asks 0xC 0)) = .next t) ∧
    (∃ t, step (machine oneMs 7 true .send { quiet with rst := true }) = .next t) :=
  ⟨⟨_, rfl⟩, ⟨_, rfl⟩, ⟨_, rfl⟩, ⟨_, rfl⟩, ⟨_, rfl⟩⟩

theorem witness_FbufIsWrittenOnlyWhenAFrameStarts :
    ∃ t, step (machine oneMs 20 false .idle (asks 0x6 0)) = .next t ∧
      t.fbuf ≠ (machine oneMs 20 false .idle (asks 0x6 0)).fbuf := ⟨_, rfl, by decide⟩

theorem witness_EventsAreWhatThePinsShow :
    (∃ t, step (sendsPlay 9 quiet) = .next t) ∧ (∃ t, step (machine oneMs 20 false .done quiet) = .next t) ∧
    (∃ t, step (waits .bootw 1 1) = .next t) ∧ (∃ t, step (waits .bootw 1 2) = .next t) :=
  ⟨⟨_, rfl⟩, ⟨_, rfl⟩, ⟨_, rfl⟩, ⟨_, rfl⟩⟩

theorem witness_BusyMachineIgnoresTheRequestPins :
    (SameButRequestPins (waits .settle 0 22) { waits .settle 0 22 with pins := asks 0x1 0 } ∧
      (waits .settle 0 22).phase ≠ .idle) ∧
    (SameButRequestPins (machine oneMs 20 false .idle { quiet with rst := true })
        (machine oneMs 20 false .idle { asks 0x1 0 with rst := true }) ∧
      (machine oneMs 20 false .idle { quiet with rst := true }).pins.rst = true) :=
  ⟨⟨⟨true, 0x1, 0, rfl⟩, by decide⟩, ⟨true, 0x1, 0, rfl⟩, rfl⟩

theorem witness_TxReadyMattersInSendOnly :
    (idle 20 false).phase ≠ .send ∧ (sendsPlay 4 { quiet with rst := true }).pins.rst = true := by decide

theorem witness_OnlyIsonlineDependsOnOnline : ∀ a, Instr.volup 0 ≠ .isonline a := by
  intro a h; cases h

theorem witness_StepsMoveTheInputsAndKeepTheParameters :
    (∃ t, step (steady quiet 2 (idle 20 false)) = .next t) ∧
    ∃ t, step (idle 20 false) = .next t := ⟨⟨_, rfl⟩, _, rfl⟩

/-- `rst` for two cycles in the middle of a frame, a cycle without a request, then GETVOL and ISONLINE, each presented
after the `Ret` before it. -/
def waitingHost : State :=
  { sendsPlay 4 { quiet with rst := true } with
    upcoming := [{ quiet with rst := true }, quiet, asks 0x3 0, quiet, asks 0x1 0, quiet, quiet] }

/-- `rst`, then GETVOL, and ISONLINE presented early as in T5: in GETVOL's `DONE` cycle, where it is not looked at. -/
def earlyHost : State :=
  { idle 7 true with
    pins := { quiet with rst := true }, upcoming := [asks 0x3 0, asks 0x1 0, asks 0x1 0, quiet, quiet] }

/-- `rst` for one cycle, and no operation. -/
def idleHost : State := { idle 7 true with pins := { quiet with rst := true }, upcoming := [quiet] }

/-- The registers and the events at the end of a run of `r` cycles of `rst` and `n` more. -/
def runResult (s : State) (program : List Instr) (r n : Nat) : Option (Arch × List Event) :=
  match runCycles r s with
  | .next u => (serve n program u).map fun t => (t.arch, t.trace)
  | .fault _ => none
  | .refused _ => none

/-- S10: after `rst` GETVOL returns 20 and ISONLINE 0. The run is over after five cycles and not after four, and is no
run of another program. -/
theorem test_run_result :
    runResult waitingHost [.getvol 0, .isonline 0] 2 5 = some (⟨20, false⟩, [.ret 0x14, .ret 0x00]) ∧
    runResult waitingHost [.getvol 0, .isonline 0] 2 4 = none ∧ runResult waitingHost [.getvol 0] 2 3 = none ∧
    runResult waitingHost [.isonline 0, .getvol 0] 2 5 = none ∧
    runResult earlyHost [.getvol 0, .isonline 0] 1 4 = some (⟨20, false⟩, [.ret 0x14, .ret 0x00]) := by decide

/-- A cycle that can end a run; runs of R14 with two operations and with none; a run whose host presents early. -/
theorem witness_FinalStateIsQuiescent :
    (idle 20 false).final ∧ (∃ t, Run waitingHost [.getvol 0, .isonline 0] 2 5 t) ∧ (∃ t, Run idleHost [] 1 0 t) ∧
    (∃ t, RunEnds earlyHost [.getvol 0, .isonline 0] 1 4 t) := by
  refine ⟨⟨rfl, rfl, rfl⟩, ⟨_, ⟨by decide, by decide, _, rfl, rfl⟩, ?_⟩, ⟨_, ⟨by decide, by decide, _, rfl, rfl⟩, ?_⟩,
    _, by decide, by decide, _, rfl, rfl⟩
  all_goals
    intro k u hk hu
    interval_cases k <;> cases hu <;> decide

/-- Each wait phase, with a full timer and with one cycle left. -/
theorem witness_WaitsLastExactlyTheirCount :
    ∀ p ∈ [(Phase.bootw, (1 : BitVec 2), 500), (.settle, 0, 30), (.settle, 1, 1), (.settle, 2, 1), (.rstw, 1, 1000)],
      let s := steady quiet 999 (waits p.1 p.2.1 p.2.2)
      (waitLength s.params s.phase).isSome = true ∧ 1 ≤ s.tmr ∧ NoReset s s.tmr ∧
        (s.phase = .settle → s.initStg ≠ 3#2) := by
  intro p hp s
  have hr : ∀ n, n ≤ 1000 → NoReset s n := fun n hn k hk => steady_noReset _ _ _ rfl k (by omega)
  fin_cases hp <;> exact ⟨rfl, by decide, hr _ (by decide), by decide⟩

theorem witness_StallHoldsTheByte :
    let s : State := { sendsPlay 8 stalls with upcoming := [stalls, stalls] }
    s.phase = .send ∧ s.bidx.toNat ≤ 9 ∧ NoReset s 3 ∧ ∀ k, k < 3 → (s.pinsAt k).txReady = false := by
  refine ⟨rfl, by decide, ?_, by decide⟩
  unfold NoReset
  decide

/-- GETVOL; and VOLUP at its limit. -/
theorem witness_NoFrameOperationReturnsAtOnce :
    (let s := steady (asks 0x3 0) 1 (idle 20 false);
      s.accepts = true ∧ NoReset s 2 ∧ (perform s.params s.request s.arch).2 = [.ret 20]) ∧
    (let s := steady (asks 0xB 0) 1 (idle 30 true);
      s.accepts = true ∧ NoReset s 2 ∧ (perform s.params s.request s.arch).2 = [.ret 0]) :=
  ⟨⟨by decide, steady_noReset _ _ _ rfl, by decide⟩, by decide, steady_noReset _ _ _ rfl, by decide⟩

/-- PAUSE with a sink that is always ready, and with one that stalls in cycle 1 only. -/
theorem witness_OneFrameOperationReturnsOnTime :
    (let s := steady (asks 0x6 0) 41 (idle 20 false);
      s.accepts = true ∧
        (perform s.params s.request s.arch).2 = deliver (encodeFrame 0x0E 0x00 0x00) ++ [.ret 0x00#8] ∧
        TakesTen s 1 10 ∧ NoReset s (10 + 2 + nSettle s.params)) ∧
    (let s : State := { idle 20 false with pins := asks 0x6 0, upcoming := stalls :: List.replicate 41 quiet };
      s.accepts = true ∧
        (perform s.params s.request s.arch).2 = deliver (encodeFrame 0x0E 0x00 0x00) ++ [.ret 0x00#8] ∧
        TakesTen s 1 11 ∧ NoReset s (11 + 2 + nSettle s.params)) := by
  refine ⟨⟨by decide, by decide, steady_takesTen _ _ 0 _ (by decide), steady_noReset _ _ _ rfl⟩,
    by decide, by decide, ⟨by decide, by decide, by decide⟩, ?_⟩
  unfold NoReset
  decide

theorem witness_InitReturnsOnTime :
    let s := steady (asks 0x0 0) 1581 (idle 30 false)
    let first := 1 + nBoot s.params
    let second := first + 10 + nSettle s.params + nReset s.params
    let last := second + 10 + nSettle s.params
    s.accepts = true ∧ s.request = .init 0 ∧ s.vol.toNat ≤ 30 ∧ TakesTen s first 10 ∧ TakesTen s second 10 ∧
      NoReset s (last + 1) :=
  ⟨by decide, by decide, by decide, steady_takesTen _ _ 500 _ (by decide), steady_takesTen _ _ 1540 _ (by decide),
    steady_noReset _ _ _ rfl⟩

/-- Is the machine in this phase after so many cycles? -/
def phaseAfter (n : Nat) (s : State) : Option Phase :=
  match runCycles n s with
  | .next t => some t.phase
  | .fault _ => none
  | .refused _ => none

theorem runs_of_phaseAfter (n : Nat) (s : State) (ph : Phase) (h : phaseAfter n s = some ph) :
    ∃ t, runCycles n s = .next t ∧ t.phase = ph := by
  unfold phaseAfter at h
  split at h
  · cases h; exact ⟨_, ‹_›, rfl⟩
  · cases h
  · cases h

theorem phaseAfter_of_run {n : Nat} {s t : State} (h : runCycles n s = .next t) : phaseAfter n s = some t.phase := by
  rw [phaseAfter, h]

/-- GETVOL, which is back in `IDLE` after two cycles; and PAUSE, which sends a frame, after its 42 (T5). -/
theorem witness_ClockedRunRefinesTheOperation :
    (let s := steady (asks 0x3 0) 1 (idle 30 false);
      s.accepts = true ∧ s.vol.toNat ≤ 30 ∧ NoReset s 2 ∧ ∃ t, ReturnsAfter s 2 t) ∧
    (let s := steady (asks 0x6 0) 41 (idle 30 false);
      s.accepts = true ∧ s.vol.toNat ≤ 30 ∧ NoReset s 42 ∧ ∃ t, ReturnsAfter s 42 t) := by
  have returns : ∀ (s : State) (n : Nat), 0 < n → phaseAfter n s = some .idle →
      (∀ k, k < n → 0 < k → phaseAfter k s ≠ some .idle) → ∃ t, ReturnsAfter s n t := by
    intro s n h0 hn hk
    obtain ⟨t, ht, hp⟩ := runs_of_phaseAfter n s .idle hn
    exact ⟨t, h0, ht, hp, fun k u hk0 hkn hu hi => hk k hkn hk0 (by rw [phaseAfter_of_run hu, hi])⟩
  exact
    ⟨⟨by decide, by decide, steady_noReset _ _ _ rfl, returns _ _ (by decide) (by decide) (by decide)⟩,
      by decide, by decide, steady_noReset _ _ _ rfl, returns _ _ (by decide) (by decide) (by decide)⟩

/-- The shortest way between two frames: the 30 cycles of the settling interval, `DONE`, and a request at once. -/
theorem witness_FramesAreKeptApart :
    let s : State := { waits .settle 0 30 with upcoming := List.replicate 30 quiet ++ [asks 0x6 0, quiet] }
    s.phase = .settle ∧ s.tmr = nSettle s.params ∧ NoReset s 32 ∧
      ∃ t, runCycles 32 s = .next t ∧ t.phase = .send := by
  refine ⟨rfl, rfl, ?_, runs_of_phaseAfter _ _ _ (by decide)⟩
  unfold NoReset
  decide

/-- Nothing on the stream yet, byte 0 on offer; and the step under `rst`. -/
theorem witness_StepKeepsTheStreamFramed :
    (idle 20 false).Inv ∧ State.Framed 0 (idle 20 false) ∧ (∃ t, step (idle 20 false) = .next t) ∧
    (idle 20 false).pins.rst = false ∧
    (let s := machine oneMs 20 false .idle { quiet with rst := true };
      s.Inv ∧ State.Framed 0 s ∧ (∃ t, step s = .next t) ∧ s.pins.rst = true) := by
  have inv : ∀ p, (machine oneMs 20 false .idle p).Inv := fun p =>
    { volume := (by decide : (20 : BitVec 5).toNat ≤ 30)
      phase := (by decide : Phase.idle ≠ .unused6 ∧ Phase.idle ≠ .unused7)
      byteIndex := (by decide : (0 : BitVec 4).toNat ≤ 9)
      initStage := (by decide : (0 : BitVec 2).toNat ≤ 2)
      initStagePhase := fun h => absurd rfl h
      timer := fun n h => by cases h
      timerWidth := (by decide : 0 < 2 ^ tmrw oneMs)
      frame := fun h => by cases h }
  exact ⟨inv _, ⟨[], rfl, by decide⟩, ⟨_, rfl⟩, rfl, inv _, ⟨[], rfl, by decide⟩, ⟨_, rfl⟩, rfl⟩

/-- The ten bytes of V2's Next frame on the stream: bytes 0 and 9 are there. -/
theorem witness_FramedStreamHasItsMarkers :
    let s : State := { waits .settle 0 30 with trace := (frameBytes (encodeFrame 0x01 0x00 0x00)).map .tx }
    s.Inv ∧ State.Framed 0 s ∧ 0 + 10 * 0 < s.stream.length ∧ 0 + 10 * 0 + 9 < s.stream.length := by
  refine ⟨?_, ⟨[(0x01, 0x00, 0x00)], by decide, by decide⟩, by decide, by decide⟩
  exact
    { volume := by decide
      phase := by decide
      byteIndex := by decide
      initStage := by decide
      initStagePhase := fun h => absurd rfl h
      timer := fun n h => by cases h; decide
      timerWidth := by decide
      frame := fun h => by cases h }

theorem witness_TracesHaveOneOfThreeShapes :
    (Instr.getvol 0).isRequest = true ∧ (Instr.pause 0).isRequest = true ∧ (Instr.init 0).isRequest = true := by decide

theorem witness_ProgramsKeepVolumeLegalAndOnlineMonotone :
    (Arch.mk 0 false).vol.toNat ≤ 30 ∧ (Arch.mk 30 true).vol.toNat ≤ 30 := by decide

theorem witness_EveryRequestReturnsOnceAndLast :
    (Instr.isonline 0).isRequest = true ∧ (Instr.reservedF 0xFFFF).isRequest = true := by decide

end Sys2Proof.Tests
end

/-! SUPPORT and PROOFS. The scope family: the inputs of a run, and the end of a run (00_scope.md R7, R11, R13, R14).
The key notion is `State.outcome`: the registers and the events with which the operation in progress will return.
No cycle changes it but an accept cycle, which makes it the one that `perform` states. -/

namespace Sys2Proof.Machine

/-! ## The inputs and the parameters -/

theorem step_cycle {s t : State} (h : step s = .next t) : t.cycle = s.cycle + 1 := by
  rcases step_cases h with ⟨_, rfl⟩ | ⟨_, u, hc, rfl⟩
  · rfl
  · obtain ⟨_, _, _, hcycle⟩ := hc.environment
    rw [State.tick_cycle, hcycle]

/-- Settles O47, from the inversion of a step. -/
theorem stepsMoveTheInputsAndKeepTheParameters : Obligations.StepsMoveTheInputsAndKeepTheParameters := by
  intro s t h
  obtain ⟨hparams, hpins⟩ := step_environment h
  exact ⟨hparams, step_cycle h, hpins⟩

/-! ## What the operation in progress still has to do -/

/-- INIT from its second wait on: the registers at its return and the events until then (42_controller_ops.md R140). -/
def State.afterReset (s : State) : Arch × List Event :=
  (⟨s.vol, true⟩, .wait tResetMs :: deliver (setVolumeFrame s.vol) ++ [.ret s.rval])

/-- The same once the settling interval at hand is over, by `INITSTG` (41_delivery.md R129; 3 does not occur). -/
def State.afterSettle (s : State) : Arch × List Event :=
  if s.initStg = 1#2 then s.afterReset
  else (⟨s.vol, if s.initStg = 2#2 then true else s.online⟩, [.ret s.rval])

/-- The same from this cycle on, by `PHASE`; nothing is left in `IDLE`. -/
def State.remaining (s : State) : Arch × List Event :=
  match s.phase with
  | .idle => (s.arch, [])
  | .bootw => (s.afterSettle.1, .wait tBootMs :: deliver resetFrame ++ s.afterSettle.2)
  | .send =>
    (s.afterSettle.1,
      ((frameBytes s.fbuf).drop s.bidx.toNat).map .tx ++ .wait tSettleMs :: s.afterSettle.2)
  | .settle => (s.afterSettle.1, .wait tSettleMs :: s.afterSettle.2)
  | .rstw => s.afterReset
  | .done => (s.arch, [.ret s.rval])
  | .unused6 => (s.arch, [])
  | .unused7 => (s.arch, [])

/-- The registers and the whole trace with which the operation in progress returns. -/
def State.outcome (s : State) : Arch × List Event := (s.remaining.1, s.trace ++ s.remaining.2)

theorem outcome_of_idle {s : State} (hp : s.phase = .idle) : s.outcome = (s.arch, s.trace) := by
  simp [State.outcome, State.remaining, hp]

theorem outcome_of_done {s : State} (hp : s.phase = .done) : s.outcome = (s.arch, s.trace ++ [.ret s.rval]) := by
  simp [State.outcome, State.remaining, hp]

theorem outcome_of_send {s : State} (hp : s.phase = .send) :
    s.outcome = (s.afterSettle.1, s.trace ++
      (((frameBytes s.fbuf).drop s.bidx.toNat).map .tx ++ .wait tSettleMs :: s.afterSettle.2)) := by
  simp [State.outcome, State.remaining, hp]

theorem outcome_of_settle {s : State} (hp : s.phase = .settle) :
    s.outcome = (s.afterSettle.1, s.trace ++ .wait tSettleMs :: s.afterSettle.2) := by
  simp [State.outcome, State.remaining, hp]

theorem outcome_of_bootw {s : State} (hp : s.phase = .bootw) :
    s.outcome = (s.afterSettle.1, s.trace ++ .wait tBootMs :: deliver resetFrame ++ s.afterSettle.2) := by
  simp [State.outcome, State.remaining, hp]

theorem outcome_of_rstw {s : State} (hp : s.phase = .rstw) :
    s.outcome = (s.afterReset.1, s.trace ++ s.afterReset.2) := by
  simp [State.outcome, State.remaining, hp]

/-- The clock edge moves the inputs only. -/
@[simp] theorem outcome_tick (s : State) : s.tick.outcome = s.outcome := rfl

/-- The next byte on offer heads what is left of a frame. -/
theorem frameBytes_drop (f : BitVec 80) {k : Nat} (hk : k < 10) :
    (frameBytes f).drop k = frameByte f k :: (frameBytes f).drop (k + 1) := by
  rw [List.drop_eq_getElem_cons (by simpa [frameBytes] using hk)]
  simp [frameBytes]

theorem frameBytes_drop_ten (f : BitVec 80) : (frameBytes f).drop 10 = [] := by
  simp [frameBytes]

@[simp] theorem State.afterSettle_emit (s : State) (e : Event) : (s.emit e).afterSettle = s.afterSettle := rfl
@[simp] theorem State.afterSettle_sendFrame (s : State) (f : BitVec 80) :
    (s.sendFrame f).afterSettle = s.afterSettle := rfl
@[simp] theorem State.afterSettle_startWait (s : State) (n : Nat) (ph : Phase) :
    (s.startWait n ph).afterSettle = s.afterSettle := rfl

/-- A frame that has just been loaded is delivered whole. -/
theorem outcome_sendFrame (s : State) (f : BitVec 80) :
    (s.sendFrame f).outcome = (s.afterSettle.1, s.trace ++ deliver f ++ s.afterSettle.2) := by
  rw [outcome_of_send rfl]
  simp [deliver, tSettleMs]

/-! ## An accepted request begins what `perform` states -/

theorem outcome_finish (s : State) (v : Byte) : (s.finish v).outcome = (s.arch, s.trace ++ [.ret v]) :=
  outcome_of_done rfl

theorem outcome_start (s : State) (c : CommandCode) (h l : Byte) :
    (s.start c h l).outcome = (s.arch, s.trace ++ oneFrame c h l) := by
  have hload : s.start c h l = { s with initStg := 0, rval := 0x00#8 }.sendFrame (encodeFrame c.code h l) := rfl
  rw [hload, outcome_sendFrame]
  simp [State.afterSettle, State.arch, oneFrame]

theorem outcome_store {s u : State} {v : BitVec 5} (h : storeVolume s v = .next u) :
    u.outcome = ((performStore s.arch v).1, s.trace ++ (performStore s.arch v).2) := by
  cases h
  exact outcome_start _ _ _ _

theorem outcome_atLimit {s u : State} (h : volumeAtLimit s = .next u) :
    u.outcome =
      ((performAtLimit s.params s.arch).1, s.trace ++ (performAtLimit s.params s.arch).2) := by
  unfold volumeAtLimit at h
  unfold performAtLimit
  split_ifs at h ⊢ <;> cases h
  · exact outcome_start _ _ _ _
  · exact outcome_finish _ _

theorem clampVolume_of_legal {v : BitVec 5} (h : v.toNat ≤ 30) : clampVolume v.toNat = v := by
  have hclamp : clamp v.toNat volMin volMax = v.toNat := by
    unfold clamp volMin volMax
    split_ifs <;> omega
  rw [clampVolume, hclamp, BitVec.ofInt_natCast, BitVec.ofNat_toNat, BitVec.setWidth_eq]

theorem outcome_init {s : State} (hv : s.vol.toNat ≤ 30) :
    { s.startWait (nBoot s.params) .bootw with initStg := 1, rval := 0x00#8 }.outcome =
      ((performInit s.arch).1, s.trace ++ (performInit s.arch).2) := by
  have hclamp : clampVolume s.arch.vol.toNat = s.vol := clampVolume_of_legal hv
  rw [outcome_of_bootw rfl, performInit, hclamp]
  simp [State.afterSettle, State.afterReset, tBootMs, tResetMs, resetFrame, setVolumeFrame, CommandCode.code]

/-- The accept cycle of a request begins the operation of its rule in 42_controller_ops.md (41_delivery.md R132). -/
theorem exec_outcome {i : Instr} (hi : i.isRequest = true) {s u : State} (hv : s.vol.toNat ≤ 30)
    (he : exec i s = .next u) :
    u.outcome = ((perform s.params i s.arch).1, s.trace ++ (perform s.params i s.arch).2) := by
  cases i with
  | init a => cases he; exact outcome_init hv
  | isonline a => cases he; exact outcome_finish _ _
  | setvol v => exact outcome_store he
  | getvol a => cases he; exact outcome_finish _ _
  | playtrk t => cases he; exact outcome_start _ _ _ _
  | playfld d t => cases he; exact outcome_start _ _ _ _
  | pause a => cases he; exact outcome_start _ _ _ _
  | resume a => cases he; exact outcome_start _ _ _ _
  | stop a => cases he; exact outcome_start _ _ _ _
  | next a => cases he; exact outcome_start _ _ _ _
  | prev a => cases he; exact outcome_start _ _ _ _
  | volup a =>
    by_cases hroom : s.vol.toNat < 30
    · rw [show perform s.params (.volup a) s.arch = performStore s.arch (s.vol + 1) from if_pos hroom]
      exact outcome_store ((if_pos hroom).symm.trans he)
    · rw [show perform s.params (.volup a) s.arch = performAtLimit s.params s.arch from if_neg hroom]
      exact outcome_atLimit ((if_neg hroom).symm.trans he)
  | voldn a =>
    by_cases hroom : 0 < s.vol.toNat
    · rw [show perform s.params (.voldn a) s.arch = performStore s.arch (s.vol - 1) from if_pos hroom]
      exact outcome_store ((if_pos hroom).symm.trans he)
    · rw [show perform s.params (.voldn a) s.arch = performAtLimit s.params s.arch from if_neg hroom]
      exact outcome_atLimit ((if_neg hroom).symm.trans he)
  | reservedD a => cases he; exact outcome_finish _ _
  | reservedE a => cases he; exact outcome_finish _ _
  | reservedF a => cases he; exact outcome_finish _ _
  | _ => cases hi

/-! ## Every other cycle keeps the outcome -/

theorem idle_of_accepts {s : State} (h : s.accepts = true) : s.phase = .idle := by
  simp only [State.accepts, State.reqReady, Bool.and_eq_true, decide_eq_true_eq] at h
  obtain ⟨-, hp, -⟩ := h
  exact hp

theorem accepted_of_exec {s u : State} (he : exec s.request s = .next u) : Accepted s u := by
  obtain ⟨t, ht, hs⟩ := exec_request s.request (decodeReq_isRequest _) s
  rw [he] at ht
  cases ht
  exact hs

/-- What an operation will return with does not depend on how long the sink and the waits take. -/
theorem Cycle.outcome_eq {s u : State} (h : Cycle s u) (ha : s.accepts = false) : u.outcome = s.outcome := by
  cases h with
  | quiet hp hv => rfl
  | accept u ha' he => simp [ha] at ha'
  | stall hp hb hr => rfl
  | byte hp hb hr =>
    have hafter : { s.emit (.tx (frameByte s.fbuf s.bidx.toNat)) with bidx := s.bidx + 1 }.afterSettle =
      s.afterSettle := rfl
    rw [outcome_of_send hp, outcome_of_send (by exact hp), hafter, frameBytes_drop s.fbuf (by omega)]
    have hbidx : (s.bidx + 1#4).toNat = s.bidx.toNat + 1 := bidx_succ_toNat _ hb
    simp [-BitVec.toNat_add, hbidx]
  | lastByte hp hb hr =>
    rw [outcome_of_send hp, outcome_of_settle rfl, hb, frameBytes_drop s.fbuf (by decide),
      frameBytes_drop_ten]
    simp
  | count n hp ht => rfl
  | bootEnd hp ht =>
    rw [outcome_of_bootw hp, outcome_sendFrame]
    simp
  | settleEndOperation hp ht hi =>
    rw [outcome_of_settle hp, outcome_of_done rfl]
    simp [State.afterSettle, hi, State.arch]
  | settleEndReset hp ht hi =>
    rw [outcome_of_settle hp, outcome_of_rstw rfl]
    simp [State.afterSettle, hi, State.afterReset]
  | settleEndInit hp ht hi =>
    rw [outcome_of_settle hp, outcome_of_done rfl]
    simp [State.afterSettle, hi, State.arch]
  | resetWaitEnd hp ht =>
    have hload : { (s.emit (.wait tResetMs)).sendFrame (setVolumeFrame s.vol) with initStg := 2 } =
      { s.emit (.wait tResetMs) with initStg := 2 }.sendFrame (setVolumeFrame s.vol) := rfl
    rw [outcome_of_rstw hp, hload, outcome_sendFrame]
    simp [State.afterSettle, State.afterReset]
  | done hp =>
    rw [outcome_of_done hp, outcome_of_idle rfl]
    simp [State.arch]

/-- A legal volume stays legal (10_state.md R29 (a)). -/
theorem Cycle.volume_legal {s u : State} (h : Cycle s u) (hv : s.vol.toNat ≤ 30) : u.vol.toNat ≤ 30 := by
  cases h with
  | accept u ha he =>
    cases accepted_of_exec he with
    | finish v => exact hv
    | start v c h l issued legal => exact (legal hv).1
    | boot => exact hv
  | _ => exact hv

/-- A cycle ends in `IDLE` only if it was there and accepted nothing, or if it was `DONE` (41_delivery.md R134). -/
theorem Cycle.ends_idle {s u : State} (h : Cycle s u) (hu : u.phase = .idle) :
    (s.phase = .idle ∧ s.accepts = false) ∨ s.phase = .done := by
  cases h with
  | quiet hp hv => exact .inl ⟨hp, by simp [State.accepts, hv]⟩
  | accept u ha he => cases accepted_of_exec he <;> cases hu
  | stall hp hb hr => exact absurd (hp.symm.trans hu) (by decide)
  | byte hp hb hr => exact absurd (hp.symm.trans hu) (by decide)
  | count n hp ht => exact absurd hu (by rcases hp with hp | hp | hp <;> simp [hp])
  | lastByte hp hb hr => cases hu
  | bootEnd hp ht => cases hu
  | settleEndOperation hp ht hi => cases hu
  | settleEndReset hp ht hi => cases hu
  | settleEndInit hp ht hi => cases hu
  | resetWaitEnd hp ht => cases hu
  | done hp => exact .inr hp

/-! ## What a step does to the outcome -/

theorem step_outcome_of_accepts {s t : State} (ha : s.accepts = true) (hv : s.vol.toNat ≤ 30)
    (h : step s = .next t) :
    t.outcome = ((perform s.params s.request s.arch).1, s.trace ++ (perform s.params s.request s.arch).2) := by
  rw [step_accept s ha] at h
  obtain ⟨u, he, rfl⟩ := clocked_eq_next h
  rw [outcome_tick]
  exact exec_outcome (decodeReq_isRequest _) hv he

theorem step_outcome_of_not_accepts {s t : State} (hr : s.pins.rst = false) (ha : s.accepts = false)
    (h : step s = .next t) : t.outcome = s.outcome := by
  rcases step_cases h with ⟨hr', -⟩ | ⟨-, u, hcycle, rfl⟩
  · simp [hr] at hr'
  · exact hcycle.outcome_eq ha

theorem step_volume_legal {s t : State} (hv : s.vol.toNat ≤ 30) (h : step s = .next t) : t.vol.toNat ≤ 30 := by
  rcases step_cases h with ⟨-, rfl⟩ | ⟨-, u, hcycle, rfl⟩
  · exact (by decide : (20 : BitVec 5).toNat ≤ 30)
  · exact hcycle.volume_legal hv

/-! ## From the first cycle after `rst` to the end -/

theorem serve_noReset {n : Nat} {todo : List Instr} {s t : State} (h : serve n todo s = some t) :
    s.pins.rst = false := by
  cases n with
  | zero =>
    obtain ⟨-, ⟨-, -, hr⟩, -⟩ := serve_zero.1 h
    exact hr
  | succ n =>
    obtain ⟨rest, u, hi, -, -⟩ := serve_succ.1 h
    obtain ⟨hr, -⟩ := issue_cases hi
    exact hr

theorem serve_final {n : Nat} {todo : List Instr} {s t : State} (h : serve n todo s = some t) : t.final := by
  induction n generalizing s todo with
  | zero =>
    obtain ⟨-, hfinal, rfl⟩ := serve_zero.1 h
    exact hfinal
  | succ n ih =>
    obtain ⟨rest, u, -, -, hu⟩ := serve_succ.1 h
    exact ih hu

/-- The end of a run in the outcome of the operation in progress and the operations left to issue. -/
theorem serve_result {n : Nat} {todo : List Instr} {s t : State} (h : serve n todo s = some t)
    (hv : s.vol.toNat ≤ 30) :
    t.arch = (performAll s.params todo s.outcome.1).1 ∧
      t.trace = s.outcome.2 ++ (performAll s.params todo s.outcome.1).2 := by
  induction n generalizing s todo with
  | zero =>
    obtain ⟨rfl, hfinal, rfl⟩ := serve_zero.1 h
    simp [outcome_of_idle hfinal.1, performAll]
  | succ n ih =>
    obtain ⟨rest, v, hissue, hstep, hserve⟩ := serve_succ.1 h
    obtain ⟨hr, hcases⟩ := issue_cases hissue
    obtain ⟨hparams, -⟩ := step_environment hstep
    have hend := ih hserve (step_volume_legal hv hstep)
    rw [hparams] at hend
    rcases hcases with ⟨ha, rfl⟩ | ⟨ha, rfl, -⟩
    · rw [step_outcome_of_accepts ha hv hstep] at hend
      rw [outcome_of_idle (idle_of_accepts ha)]
      simpa [performAll] using hend
    · rwa [step_outcome_of_not_accepts hr ha hstep] at hend

theorem serve_idle_nil {n : Nat} {s t : State} (hp : s.phase = .idle) (h : serve n [] s = some t) : n = 0 := by
  cases n with
  | zero => rfl
  | succ n =>
    obtain ⟨rest, u, hissue, -, -⟩ := serve_succ.1 h
    rcases (issue_cases hissue).2 with ⟨-, hcons⟩ | ⟨-, -, hbusy | hne⟩
    · cases hcons
    · exact absurd hp hbusy
    · exact absurd rfl hne

/-- A run that is not over at once has the return of its last operation in the cycle before its end. -/
theorem serve_last_return {n : Nat} {todo : List Instr} {s t : State} (h : serve n todo s = some t)
    (hbusy : todo ≠ [] ∨ s.phase ≠ .idle) :
    0 < n ∧ ∃ d, runCycles (n - 1) s = .next d ∧ d.rspValid = true := by
  induction n generalizing s todo with
  | zero =>
    obtain ⟨htodo, hfinal, -⟩ := serve_zero.1 h
    simp [htodo, hfinal.1] at hbusy
  | succ n ih =>
    obtain ⟨rest, v, hissue, hstep, hserve⟩ := serve_succ.1 h
    refine ⟨n.succ_pos, ?_⟩
    by_cases hover : rest = [] ∧ v.phase = .idle
    · obtain ⟨rfl, hidle⟩ := hover
      obtain rfl := serve_idle_nil hidle hserve
      obtain ⟨hr, hcases⟩ := issue_cases hissue
      refine ⟨s, rfl, ?_⟩
      rcases step_cases hstep with ⟨hr', -⟩ | ⟨-, u, hcycle, rfl⟩
      · simp [hr] at hr'
      rcases hcycle.ends_idle hidle with ⟨hp, ha⟩ | hp
      · simp [ha, hp] at hcases
      · simp [State.rspValid, hp, hr]
    · obtain ⟨hpos, d, hd, hret⟩ := ih hserve (by tauto)
      refine ⟨d, ?_, hret⟩
      rw [show n + 1 - 1 = n - 1 + 1 by omega, runCycles_succ _ hstep, hd]

/-- A run has one end. -/
theorem serve_unique {n m : Nat} {todo : List Instr} {s t t' : State} (h : serve n todo s = some t)
    (h' : serve m todo s = some t') : m = n ∧ t' = t := by
  induction n generalizing m s todo with
  | zero =>
    obtain ⟨rfl, hfinal, rfl⟩ := serve_zero.1 h
    obtain rfl := serve_idle_nil hfinal.1 h'
    exact ⟨rfl, (serve_zero.1 h').2.2⟩
  | succ n ih =>
    obtain ⟨rest, u, hissue, hstep, hserve⟩ := serve_succ.1 h
    cases m with
    | zero =>
      obtain ⟨rfl, hfinal, -⟩ := serve_zero.1 h'
      cases serve_idle_nil hfinal.1 h
    | succ m =>
      obtain ⟨rest', u', hissue', hstep', hserve'⟩ := serve_succ.1 h'
      obtain rfl : rest = rest' := by simpa [hissue] using hissue'
      obtain rfl : u = u' := by simpa [hstep] using hstep'
      obtain ⟨rfl, rfl⟩ := ih hserve hserve'
      exact ⟨rfl, rfl⟩

/-! ## The cycles of `rst` before a run -/

/-- After at least one cycle of `rst` nothing is in progress: the registers have their reset values, and the trace is
what it was. -/
theorem runCycles_rst {r : Nat} {s u : State} (hpos : 0 < r) (hrst : ∀ k, k < r → (s.pinsAt k).rst = true)
    (h : runCycles r s = .next u) : u.phase = .idle ∧ u.arch = ⟨20, false⟩ ∧ u.trace = s.trace := by
  induction r generalizing s with
  | zero => cases hpos
  | succ r ih =>
    obtain ⟨v, hstep, hrun⟩ := runCycles_succ_inv h
    rw [step_rst s (hrst 0 r.succ_pos)] at hstep
    cases hstep
    cases r with
    | zero =>
      cases hrun
      exact ⟨rfl, rfl, rfl⟩
    | succ r =>
      have hrst' : ∀ k, k < r + 1 → (s.resetEdge.tick.pinsAt k).rst = true := fun k hk => by
        rw [State.tick_pinsAt]
        exact hrst (k + 1) (by omega)
      exact ih (s := s.resetEdge.tick) r.succ_pos hrst' hrun

/-- `rst` ends in the cycle in which the run of the program begins. -/
theorem RunEnds.rst_le {s t t' : State} {program program' : List Instr} {r n r' n' : Nat}
    (h : RunEnds s program r n t) (h' : RunEnds s program' r' n' t') : r' ≤ r := by
  obtain ⟨-, -, u, hu, hserve⟩ := h
  obtain ⟨-, hrst', -⟩ := h'
  by_contra hlt
  have hr : (s.pinsAt r).rst = true := hrst' r (by omega)
  obtain ⟨-, hpins⟩ := runCycles_environment hu
  have hlow : u.pins.rst = false := serve_noReset hserve
  rw [← State.pinsAt_zero, hpins 0, Nat.add_zero, hr] at hlow
  cases hlow

/-! ## The run of a program -/

/-- A cycle that can end a run shows a machine at rest and changes nothing. -/
theorem final_quiescent {s : State} (h : s.final) :
    s.reqReady = true ∧ s.txValid = false ∧ s.rspValid = false ∧ step s = .next (s.ticks 1) := by
  obtain ⟨hp, hv, hr⟩ := h
  refine ⟨by simp [State.reqReady, hp, hr], by simp [State.txValid, hp], by simp [State.rspValid, hp], ?_⟩
  rw [step_quiet s hr hp hv, State.tick, State.ticks, List.drop_one]

/-- A run ends with the registers and the events of its program's operations, from the reset values. -/
theorem RunEnds.result {s t : State} {program : List Instr} {r n : Nat} (h : RunEnds s program r n t) :
    t.arch = (performAll s.params program ⟨20, false⟩).1 ∧
      t.trace = s.trace ++ (performAll s.params program ⟨20, false⟩).2 := by
  obtain ⟨hpos, hrst, u, hu, hserve⟩ := h
  obtain ⟨hidle, harch, htrace⟩ := runCycles_rst hpos hrst hu
  obtain ⟨hparams, -⟩ := runCycles_environment hu
  have hvol : u.vol = 20 := congrArg Arch.vol harch
  have hend := serve_result hserve (by rw [hvol]; decide)
  rwa [outcome_of_idle hidle, harch, htrace, hparams] at hend

/-- The last operation returns in the cycle before the end. -/
theorem RunEnds.last_return {s t : State} {program : List Instr} {r n : Nat} (h : RunEnds s program r n t)
    (hne : program ≠ []) : 0 < n ∧ ∃ d, runCycles (r + (n - 1)) s = .next d ∧ d.rspValid = true := by
  obtain ⟨-, -, u, hu, hserve⟩ := h
  rw [runCycles_add _ hu]
  exact serve_last_return hserve (.inl hne)

theorem RunEnds.unique {s t t' : State} {program : List Instr} {r n r' n' : Nat} (h : RunEnds s program r n t)
    (h' : RunEnds s program r' n' t') : r' = r ∧ n' = n ∧ t' = t := by
  obtain rfl : r' = r := Nat.le_antisymm (h.rst_le h') (h'.rst_le h)
  obtain ⟨-, -, u, hu, hserve⟩ := h
  obtain ⟨-, -, u', hu', hserve'⟩ := h'
  obtain rfl : u = u' := by simpa [hu] using hu'
  exact ⟨rfl, serve_unique hserve hserve'⟩

theorem RunEnds.final {s t : State} {program : List Instr} {r n : Nat} (h : RunEnds s program r n t) : t.final := by
  obtain ⟨-, -, u, -, hserve⟩ := h
  exact serve_final hserve

/-- Settles O48, from the outcome that every cycle but an accept cycle keeps (`Cycle.outcome_eq`, `exec_outcome`), by
induction on the cycles of the run. -/
theorem finalStateIsQuiescent : Obligations.FinalStateIsQuiescent := by
  refine ⟨fun s h => final_quiescent h, fun s t program r n h => ?_⟩
  obtain ⟨harch, htrace⟩ := h.result
  exact ⟨h.final, harch, htrace, h.last_return, fun r' n' t' h' => h.unique h'⟩

end Sys2Proof.Machine

/-! SUPPORT and PROOFS. The state family: the reset state, the invariants of the reachable states, and what each cycle
does to `VOL`, `ONLINE` and `FBUF` (10_state.md R20 to R33). -/

namespace Sys2Proof.Machine

/-! ## The waits in cycles -/

theorem waitCycles_pos (p : Params) {ms : Nat} (h : 0 < ms) : 0 < waitCycles p ms :=
  Nat.mul_pos h p.cyclesPerMs.pos

/-- No wait is empty, and none is longer than `N_RESET`, which sets the width of `TMR` (00_scope.md R7). -/
theorem waitLength_bounds {p : Params} {ph : Phase} {n : Nat} (h : waitLength p ph = some n) :
    1 ≤ n ∧ n < 2 ^ tmrw p := by
  have hwidth : nReset p < 2 ^ tmrw p := Nat.lt_log2_self
  have hle {ms : Nat} (hms : ms ≤ tResetMs) : waitCycles p ms ≤ nReset p := Nat.mul_le_mul_right _ hms
  cases ph with
  | bootw => cases h; exact ⟨waitCycles_pos p (by decide), (hle (by decide)).trans_lt hwidth⟩
  | settle => cases h; exact ⟨waitCycles_pos p (by decide), (hle (by decide)).trans_lt hwidth⟩
  | rstw => cases h; exact ⟨waitCycles_pos p (by decide), hwidth⟩
  | idle | send | done | unused6 | unused7 => cases h

/-- A wait phase is one of INIT's phases. -/
theorem initPhase_of_waitLength {p : Params} {ph : Phase} {n : Nat} (h : waitLength p ph = some n) :
    initPhase ph = true := by
  cases ph with
  | bootw | settle | rstw => rfl
  | idle | send | done | unused6 | unused7 => cases h

/-! ## The invariants through the named updates of the state -/

/-- A command that an operation issues: every CommandCode but QueryStatus (40_encoder.md R95). -/
theorem code_mem_issuedCodes {c : CommandCode} (h : c ≠ .queryStatus) : c.code ∈ issuedCodes := by
  cases c with
  | queryStatus => exact absurd rfl h
  | play | pause | next | prev | setVolume | playFromFolder | stop | reset => decide

/-- `INITSTG` is 0 outside INIT's phases (10_state.md R29 (d)). -/
theorem State.Inv.initStg_eq_zero {s : State} (h : s.Inv) (hp : initPhase s.phase = false) : s.initStg = 0#2 := by
  by_contra hne
  simp [h.initStagePhase hne] at hp

theorem State.Inv.tick {s : State} (h : s.Inv) : s.tick.Inv := { h with }

theorem State.Inv.emit {s : State} (h : s.Inv) (e : Event) : (s.emit e).Inv := { h with }

theorem State.Inv.setVol {s : State} (h : s.Inv) {v : BitVec 5} (hv : v.toNat ≤ 30) : (s.setVol v).Inv :=
  { h with volume := hv }

/-- Loading a frame of an issued command, in whatever phase. -/
theorem State.Inv.sendFrame {s : State} (h : s.Inv) {c : CommandCode} (hc : c ≠ .queryStatus) (hi lo : Byte) :
    (s.sendFrame (encodeFrame c.code hi lo)).Inv :=
  { h with
    phase := by simp
    byteIndex := by simp
    initStagePhase := fun _ => rfl
    timer := fun _ hn => nomatch hn
    frame := fun _ => ⟨c.code, code_mem_issuedCodes hc, hi, lo, rfl⟩ }

/-- Writing a stage of INIT, in one of INIT's phases. -/
theorem State.Inv.setInitStg {s : State} (h : s.Inv) {k : BitVec 2} (hk : k.toNat ≤ 2)
    (hp : initPhase s.phase = true) : { s with initStg := k }.Inv :=
  { h with initStage := hk, initStagePhase := fun _ => hp }

theorem State.Inv.setRval {s : State} (h : s.Inv) (v : Byte) : { s with rval := v }.Inv := { h with }

/-- Beginning a wait of its phase's own length. -/
theorem State.Inv.startWait {s : State} (h : s.Inv) {ph : Phase} {n : Nat} (hn : waitLength s.params ph = some n) :
    (s.startWait n ph).Inv :=
  { h with
    phase := by constructor <;> rintro rfl <;> cases hn
    initStagePhase := fun _ => initPhase_of_waitLength hn
    timer := fun m hm => by
      obtain rfl : n = m := Option.some.inj (hn.symm.trans hm)
      exact ⟨(waitLength_bounds hn).1, le_rfl⟩
    timerWidth := (waitLength_bounds hn).2
    frame := fun hs => by
      cases hs
      cases hn }

/-- Counting a wait down, but not to 0. -/
theorem State.Inv.countDown {s : State} (h : s.Inv) {n : Nat} (ht : s.tmr = n + 2) :
    { s with tmr := n + 1 }.Inv :=
  { h with
    timer := fun m hm => by
      obtain ⟨-, hle⟩ := h.timer m hm
      exact ⟨by simp, by simp only; omega⟩
    timerWidth := by
      have := h.timerWidth
      simp only
      omega }

/-- Going to `DONE` or to `IDLE` with INIT's stages over. -/
theorem State.Inv.rest {s : State} (h : s.Inv) {ph : Phase} (hi : s.initStg = 0#2) (hp : ph = .done ∨ ph = .idle) :
    { s with phase := ph }.Inv :=
  { h with
    phase := by rcases hp with rfl | rfl <;> simp
    initStagePhase := fun hne => absurd hi hne
    timer := fun n hn => by rcases hp with rfl | rfl <;> cases hn
    frame := fun hs => by rcases hp with rfl | rfl <;> cases hs }

/-! ## The invariants through a cycle -/

/-- The reset edge, from any state. -/
theorem inv_resetEdge (s : State) : s.resetEdge.Inv where
  volume := by simp
  phase := by simp
  byteIndex := by simp
  initStage := by simp
  initStagePhase := fun hne => absurd rfl hne
  timer := fun n hn => nomatch hn
  timerWidth := by simp
  frame := fun hs => nomatch hs

/-- An accept cycle, which happens in `IDLE`. -/
theorem Accepted.inv {s u : State} (h : Accepted s u) (hs : s.Inv) (hp : s.phase = .idle) : u.Inv := by
  cases h with
  | finish v => exact (hs.setRval v).rest (hs.initStg_eq_zero (by rw [hp]; rfl)) (.inl rfl)
  | start v c hi lo issued legal =>
    have hsend := (hs.setVol (legal hs.volume).1).sendFrame issued hi lo
    exact (hsend.setInitStg (k := 0) (by decide) rfl).setRval 0x00#8
  | boot => exact ((hs.startWait (ph := .bootw) rfl).setInitStg (k := 1) (by decide) rfl).setRval 0x00#8

theorem Cycle.inv {s u : State} (h : Cycle s u) (hs : s.Inv) : u.Inv := by
  cases h with
  | quiet hp hv => exact hs
  | accept u ha he => exact (accepted_of_exec he).inv hs (idle_of_accepts ha)
  | stall hp hb hr => exact hs
  | byte hp hb hr =>
    have hbidx : (s.bidx + 1).toNat ≤ 9 := by rw [bidx_succ_toNat _ hb]; omega
    exact { hs with byteIndex := hbidx }
  | lastByte hp hb hr => exact (hs.emit _).startWait rfl
  | count n hp ht => exact hs.countDown ht
  | bootEnd hp ht => exact (hs.emit _).sendFrame (by decide) _ _
  | settleEndOperation hp ht hi => exact (hs.emit _).rest hi (.inl rfl)
  | settleEndReset hp ht hi => exact (hs.emit _).startWait rfl
  | settleEndInit hp ht hi =>
    have hover := (hs.emit (.wait tSettleMs)).setInitStg (k := 0) (by decide) (by rw [State.emit_phase, hp]; rfl)
    exact { hover.rest rfl (.inl rfl) with }
  | resetWaitEnd hp ht =>
    have hsend := (hs.emit (.wait tResetMs)).sendFrame (c := .setVolume) (by decide) 0x00#8 (volumeByte s.vol)
    exact hsend.setInitStg (by decide) rfl
  | done hp => exact (hs.emit _).rest (hs.initStg_eq_zero (by rw [hp]; rfl)) (.inr rfl)

/-- Settles O36, from the inversion of a step: the reset edge and every cycle keep the invariants. -/
theorem stepKeepsTheInvariants : Obligations.StepKeepsTheInvariants := by
  intro s t hs h
  rcases step_cases h with ⟨-, rfl⟩ | ⟨-, u, hcycle, rfl⟩
  · exact (inv_resetEdge s).tick
  · exact (hcycle.inv hs).tick

/-! ## The cycles that change a register -/

/-- Only the end of INIT's second settling interval sets `ONLINE` (41_delivery.md R129). -/
theorem Cycle.online_eq {s u : State} (h : Cycle s u) :
    u.online = if s.phase = .settle ∧ s.tmr = 1 ∧ s.initStg = 2#2 then true else s.online := by
  cases h with
  | quiet hp hv => simp [hp]
  | accept u ha he => cases accepted_of_exec he <;> simp [idle_of_accepts ha]
  | stall hp hb hr => simp [hp]
  | byte hp hb hr => simp [hp]
  | lastByte hp hb hr => simp [hp]
  | count n hp ht => simp [ht]
  | bootEnd hp ht => simp [hp]
  | settleEndOperation hp ht hi => simp [hi]
  | settleEndReset hp ht hi => simp [hi]
  | settleEndInit hp ht hi => simp [hp, ht, hi]
  | resetWaitEnd hp ht => simp [hp]
  | done hp => simp [hp]

/-- Settles O40, from the inversion of a step. -/
theorem onlineRisesAtInitEndAndFallsByRst : Obligations.OnlineRisesAtInitEndAndFallsByRst := by
  intro s t h
  rcases step_cases h with ⟨hr, rfl⟩ | ⟨hr, u, hcycle, rfl⟩
  · simp [hr]
  · simpa [hr] using hcycle.online_eq

/-- `FBUF` is written by the accept cycles that start a frame and at the ends of INIT's two long waits. -/
theorem Cycle.fbuf_eq_or_starts {s u : State} (h : Cycle s u) :
    u.fbuf = s.fbuf ∨ (s.phase ≠ .send ∧ u.phase = .send ∧ u.bidx = 0) := by
  cases h with
  | accept u ha he =>
    have hidle : s.phase ≠ .send := by simp [idle_of_accepts ha]
    cases accepted_of_exec he with
    | finish v => exact .inl rfl
    | start v c hi lo issued legal => exact .inr ⟨hidle, rfl, rfl⟩
    | boot => exact .inl rfl
  | bootEnd hp ht => exact .inr ⟨by simp [hp], rfl, rfl⟩
  | resetWaitEnd hp ht => exact .inr ⟨by simp [hp], rfl, rfl⟩
  | _ => exact .inl rfl

/-- Settles O42, from the inversion of a step. -/
theorem fbufIsWrittenOnlyWhenAFrameStarts : Obligations.FbufIsWrittenOnlyWhenAFrameStarts := by
  intro s t h hne
  rcases step_cases h with ⟨hr, -⟩ | ⟨-, u, hcycle, rfl⟩
  · exact .inl hr
  · exact .inr (hcycle.fbuf_eq_or_starts.resolve_left hne)

/-! ## The volume after a request -/

/-- The volume that an accepted instruction leaves, over the integers (40_encoder.md R92 (f)). -/
def volumeAfter (i : Instr) (v : Int) : Int :=
  match i with
  | .setvol a => clamp a.toInt 0 30
  | .volup _ => if v < 30 then v + 1 else v
  | .voldn _ => if 0 < v then v - 1 else v
  | _ => v

theorem vol_atLimit {s u : State} (h : volumeAtLimit s = .next u) : u.vol = s.vol := by
  unfold volumeAtLimit at h
  split_ifs at h <;> cases h <;> rfl

theorem exec_volume {i : Instr} (hi : i.isRequest = true) {s u : State} (he : exec i s = .next u) :
    (u.vol.toNat : Int) = volumeAfter i s.vol.toNat := by
  cases i with
  | setvol v => cases he; exact clampVolume_toNat _
  | volup a =>
    by_cases hroom : s.vol.toNat < 30
    · cases (if_pos hroom).symm.trans he
      simp only [volumeAfter, State.start_vol, State.setVol_vol, vol_succ_toNat _ hroom]
      omega
    · rw [vol_atLimit ((if_neg hroom).symm.trans he)]
      simp only [volumeAfter]
      omega
  | voldn a =>
    by_cases hroom : 0 < s.vol.toNat
    · cases (if_pos hroom).symm.trans he
      simp only [volumeAfter, State.start_vol, State.setVol_vol, vol_pred_toNat _ hroom]
      omega
    · rw [vol_atLimit ((if_neg hroom).symm.trans he)]
      simp only [volumeAfter]
      omega
  | init | isonline | getvol | playtrk | playfld | pause | resume | stop | next | prev | reservedD | reservedE
  | reservedF => cases he; rfl
  | _ => cases hi

/-- What a request does to the volume, by its opcode (30_encoding.md R61). -/
theorem volumeAfter_decodeReq (op : BitVec 4) (arg : Half) (v : Int) :
    volumeAfter (decodeReq (reqWord op arg)) v =
      match op.toNat with
      | 0x2 => clamp arg.toInt 0 30
      | 0xB => if v < 30 then v + 1 else v
      | 0xC => if 0 < v then v - 1 else v
      | _ => v := by
  rw [decodeReq, reqWord, BitVec.extractLsb'_append_eq_left, BitVec.extractLsb'_append_eq_right]
  obtain ⟨⟨n, hn⟩⟩ := op
  interval_cases n <;> rfl

/-- Every cycle but an accept cycle keeps the volume. -/
theorem Cycle.vol_eq {s u : State} (h : Cycle s u) (ha : s.accepts = false) : u.vol = s.vol := by
  cases h with
  | accept u ha' he => simp [ha] at ha'
  | _ => rfl

theorem accepts_iff {s : State} (hr : s.pins.rst = false) :
    s.accepts = true ↔ s.phase = .idle ∧ s.pins.reqValid = true := by
  simp [State.accepts, State.reqReady, hr, and_comm]

/-- Settles O41: an accept cycle writes the volume as its opcode says (`exec_volume`), no other cycle does. -/
theorem volIsWrittenByVolumeRequestsAndRst : Obligations.VolIsWrittenByVolumeRequestsAndRst := by
  intro s t h v
  rcases step_cases h with ⟨hr, rfl⟩ | ⟨hr, u, hcycle, rfl⟩
  · simp [hr]
  rw [if_neg (by simp [hr])]
  by_cases ha : s.accepts = true
  · rw [if_pos ((accepts_iff hr).1 ha)]
    rw [step_accept s ha] at h
    obtain ⟨w, he, hw⟩ := clocked_eq_next h
    rw [hw]
    exact (exec_volume (decodeReq_isRequest _) he).trans (volumeAfter_decodeReq _ _ _)
  · rw [if_neg (mt (accepts_iff hr).2 ha), State.tick_vol, hcycle.vol_eq (by simpa using ha)]

/-! ## What a frame's cycle leaves -/

theorem exists_frameFields {i : Instr} (h : i.isRequest = false) : ∃ x, i.frameFields = some x := by
  simpa [Instr.isRequest, Option.isSome_iff_exists] using h

theorem stream_of_trace_tx {s t : State} {b : Byte} (h : t.trace = s.trace ++ [.tx b]) :
    t.stream = s.stream ++ [b] := by
  rw [State.stream, h, streamOf_append]
  rfl

/-- A cycle of `SEND` appends at most one byte to the stream, and no other (20_memory.md R46). -/
theorem sendByte_stream {f : BitVec 80} {s t : State} (h : sendByte f s = .next t) :
    ∃ bs, t.stream = s.stream ++ bs ∧ bs.length = if s.pins.txReady then 1 else 0 := by
  rcases sendByte_cases f s with ⟨-, hs⟩ | ⟨-, hr, hs⟩ | ⟨-, hr, hs⟩ | ⟨-, hr, hs⟩ <;> rw [hs] at h <;> cases h
  · exact ⟨[], by simp, by simp [hr]⟩
  · exact ⟨[_], stream_of_trace_tx rfl, by simp [hr]⟩
  · exact ⟨[_], stream_of_trace_tx rfl, by simp [hr]⟩

/-- The registers that a cycle of `SEND` does not write, and the model's own fields. -/
theorem sendByte_keeps {f : BitVec 80} {s t : State} (h : sendByte f s = .next t) :
    t.vol = s.vol ∧ t.online = s.online ∧ t.fbuf = s.fbuf ∧ t.initStg = s.initStg ∧ t.rval = s.rval ∧
      t.params = s.params ∧ t.pins = s.pins ∧ t.upcoming = s.upcoming ∧ t.cycle = s.cycle := by
  rcases sendByte_cases f s with ⟨-, hs⟩ | ⟨-, -, hs⟩ | ⟨-, -, hs⟩ | ⟨-, -, hs⟩ <;> rw [hs] at h <;> cases h <;>
    exact ⟨rfl, rfl, rfl, rfl, rfl, rfl, rfl, rfl, rfl⟩

/-- Settles O26: a frame's cycle is a cycle of `SEND` (`exec_frame`). -/
theorem framesLeaveTheRestUnchanged : Obligations.FramesLeaveTheRestUnchanged := by
  intro i s t hi he
  obtain ⟨x, hx⟩ := exists_frameFields hi
  rw [exec_frame i x hx] at he
  obtain ⟨hvol, honline, hfbuf, hstage, hrval, hparams, hpins, hupcoming, hcycle⟩ := sendByte_keeps he
  obtain ⟨bs, hstream, hlength⟩ := sendByte_stream he
  refine ⟨hvol, honline, hfbuf, hstage, hrval, hparams, hpins, hupcoming, hcycle, ?_, fun k hk => ?_⟩
  · rw [hstream, List.length_append, hlength]
  · rw [hstream, List.getElem?_append_left hk]

/-! ## The reset state -/

/-- The reset state is what the reset edge makes of it. -/
theorem inv_reset : State.reset.Inv := inv_resetEdge State.reset

theorem emitInv_reset : State.reset.EmitInv := ⟨inv_reset.volume, fun hs => nomatch hs⟩

/-- No frame has been sent and none is on offer. -/
theorem framed_reset : State.Framed 0 State.reset := ⟨[], rfl, Nat.zero_le _⟩

/-- Settles O34: each register by its definition, and the three invariants. -/
theorem resetStateHasTheResetValues : Obligations.ResetStateHasTheResetValues :=
  ⟨rfl, rfl, rfl, rfl, rfl, rfl, rfl, rfl, rfl, rfl, rfl, inv_reset, emitInv_reset, framed_reset⟩

/-! ## The codes no run reaches -/

theorem waitCycle_zero (exit : State → Answer) {s : State} (ht : s.tmr = 0) :
    waitCycle exit s = .refused .unreachableTimer := by
  simp [waitCycle, ht]

theorem waitCycle_one (exit : State → Answer) {s : State} (ht : s.tmr = 1) : waitCycle exit s = exit s := by
  simp [waitCycle, ht]

theorem step_unused (s : State) (hr : s.pins.rst = false) (hp : s.phase = .unused6 ∨ s.phase = .unused7) :
    step s = .refused .unreachablePhase := by
  rcases hp with hp | hp <;> simp [step, hr, fetch, fetchWord, hp, sequencerCycle, clocked]

/-- Settles O35, from the step of each phase. -/
theorem unreachableCodesAreRefused : Obligations.UnreachableCodesAreRefused := by
  intro s hr
  refine ⟨step_unused s hr, fun hp hb => ?_, fun hp ht hi => ?_, fun hp ht => ?_⟩
  · rw [step_send s hr hp, sendByte, if_pos (by omega)]
    rfl
  · rw [step_settle s hr hp, waitCycle_one _ ht, settleExit, hi]
    rfl
  · rcases hp with hp | hp | hp
    · rw [step_bootw s hr hp, waitCycle_zero _ ht]
      rfl
    · rw [step_settle s hr hp, waitCycle_zero _ ht]
      rfl
    · rw [step_rstw s hr hp, waitCycle_zero _ ht]
      rfl

end Sys2Proof.Machine

/-! SUPPORT and PROOFS. The memory family: the frames on the transport stream (20_memory.md R45, R51). The key notion
is `State.begun`, the part of the frame on offer that is already on the stream: a cycle appends the same bytes to the
stream and to the begun part, or it completes the frame. -/

namespace Sys2Proof.Machine

/-! ## Whole frames and the begun one -/

/-- The ten bytes of the frame with this command byte and these parameter bytes. -/
def bytesOfFrame (f : Byte × Byte × Byte) : List Byte := frameBytes (encodeFrame f.1 f.2.1 f.2.2)

/-- The bytes of frames sent one after the other. -/
def bytesOfFrames (fs : List (Byte × Byte × Byte)) : List Byte := (fs.map bytesOfFrame).flatten

/-- The bytes of the frame on offer that the sink has already taken; none outside `SEND`. -/
def State.begun (s : State) : List Byte :=
  if s.phase = .send then (frameBytes s.fbuf).take s.bidx.toNat else []

theorem framed_iff {base : Nat} {s : State} :
    State.Framed base s ↔ ∃ fs, s.stream.drop base = bytesOfFrames fs ++ s.begun ∧ base ≤ s.stream.length :=
  Iff.rfl

@[simp] theorem bytesOfFrames_nil : bytesOfFrames [] = [] := rfl

@[simp] theorem bytesOfFrames_cons (f : Byte × Byte × Byte) (fs : List (Byte × Byte × Byte)) :
    bytesOfFrames (f :: fs) = bytesOfFrame f ++ bytesOfFrames fs := rfl

@[simp] theorem bytesOfFrames_append (fs gs : List (Byte × Byte × Byte)) :
    bytesOfFrames (fs ++ gs) = bytesOfFrames fs ++ bytesOfFrames gs := by
  simp [bytesOfFrames]

@[simp] theorem length_bytesOfFrame (f : Byte × Byte × Byte) : (bytesOfFrame f).length = 10 := by
  simp [bytesOfFrame, frameBytes]

theorem begun_of_send {s : State} (hp : s.phase = .send) : s.begun = (frameBytes s.fbuf).take s.bidx.toNat :=
  if_pos hp

theorem begun_of_not_send {s : State} (hp : s.phase ≠ .send) : s.begun = [] := if_neg hp

/-- Taking the byte on offer (41_delivery.md R128). -/
theorem take_append_frameByte (f : BitVec 80) {k : Nat} (hk : k < 10) :
    (frameBytes f).take k ++ [frameByte f k] = (frameBytes f).take (k + 1) := by
  rw [List.take_add_one]
  simp [frameBytes, hk]

/-! ## What a cycle does to the stream -/

/-- The cycle appends the same bytes to the stream and to the begun part of the frame on offer, or the bytes it
appends to the stream complete that frame. -/
def ExtendsFrame (s u : State) : Prop :=
  ∃ bs, u.stream = s.stream ++ bs ∧
    (u.begun = s.begun ++ bs ∨ (s.phase = .send ∧ s.begun ++ bs = frameBytes s.fbuf ∧ u.begun = []))

theorem ExtendsFrame.refl (s : State) : ExtendsFrame s s := ⟨[], by simp, .inl (by simp)⟩

/-- No frame is on offer, no byte is taken, and a frame that is loaded is not begun. -/
theorem ExtendsFrame.of_silent {s u : State} (hs : s.phase ≠ .send) (hstream : u.stream = s.stream)
    (hu : u.begun = []) : ExtendsFrame s u :=
  ⟨[], by simp [hstream], .inl (by simp [hu, begun_of_not_send hs])⟩

/-- An accepted request loads a frame at most (41_delivery.md R127). -/
theorem Accepted.silent {s u : State} (h : Accepted s u) : u.stream = s.stream ∧ u.begun = [] := by
  cases h <;> exact ⟨rfl, rfl⟩

theorem Cycle.extendsFrame {s u : State} (h : Cycle s u) : ExtendsFrame s u := by
  cases h with
  | quiet hp hv => exact .refl s
  | accept u ha he =>
    obtain ⟨hstream, hbegun⟩ := (accepted_of_exec he).silent
    exact .of_silent (by simp [idle_of_accepts ha]) hstream hbegun
  | stall hp hb hr => exact .refl s
  | byte hp hb hr =>
    refine ⟨[frameByte s.fbuf s.bidx.toNat], s.emit_tx_stream _, .inl ?_⟩
    rw [begun_of_send hp, take_append_frameByte _ (by omega), begun_of_send (by exact hp)]
    exact congrArg (List.take · (frameBytes s.fbuf)) (bidx_succ_toNat _ hb)
  | lastByte hp hb hr =>
    refine ⟨[frameByte s.fbuf 9], s.emit_tx_stream _, .inr ⟨hp, ?_, rfl⟩⟩
    rw [begun_of_send hp, hb, take_append_frameByte _ (by decide)]
    exact List.take_of_length_le (by simp [frameBytes])
  | count n hp ht =>
    have hs : s.phase ≠ .send := by rcases hp with hp | hp | hp <;> simp [hp]
    exact .of_silent hs rfl (begun_of_not_send hs)
  | bootEnd hp ht => exact .of_silent (by simp [hp]) (s.emit_wait_stream _) rfl
  | settleEndOperation hp ht hi => exact .of_silent (by simp [hp]) (s.emit_wait_stream _) rfl
  | settleEndReset hp ht hi => exact .of_silent (by simp [hp]) (s.emit_wait_stream _) rfl
  | settleEndInit hp ht hi => exact .of_silent (by simp [hp]) (s.emit_wait_stream _) rfl
  | resetWaitEnd hp ht => exact .of_silent (by simp [hp]) (s.emit_wait_stream _) rfl
  | done hp => exact .of_silent (by simp [hp]) (s.emit_ret_stream _) rfl

/-! ## The stream stays framed -/

/-- In `SEND` the frame on offer is one that the encoder makes (10_state.md R29 (f)). -/
theorem State.Inv.frame_on_offer {s : State} (h : s.Inv) (hp : s.phase = .send) :
    ∃ f, frameBytes s.fbuf = bytesOfFrame f := by
  obtain ⟨c, -, hi, lo, hf⟩ := h.frame hp
  exact ⟨(c, hi, lo), congrArg frameBytes hf⟩

theorem ExtendsFrame.framed {base : Nat} {s u : State} (h : ExtendsFrame s u) (hs : s.Inv)
    (hf : State.Framed base s) : State.Framed base u := by
  obtain ⟨fs, hdrop, hbase⟩ := framed_iff.1 hf
  obtain ⟨bs, hstream, hbegun⟩ := h
  have hdrop' : u.stream.drop base = bytesOfFrames fs ++ (s.begun ++ bs) := by
    rw [hstream, List.drop_append_of_le_length hbase, hdrop, List.append_assoc]
  have hbase' : base ≤ u.stream.length := by
    rw [hstream, List.length_append]
    omega
  rcases hbegun with hgoesOn | ⟨hp, hcomplete, hnone⟩
  · exact framed_iff.2 ⟨fs, by rw [hdrop', hgoesOn], hbase'⟩
  · obtain ⟨f, hbytes⟩ := hs.frame_on_offer hp
    exact framed_iff.2 ⟨fs ++ [f], by simp [hdrop', hcomplete, hbytes, hnone], hbase'⟩

/-- A new count begins where the stream stands, while no frame is begun. -/
theorem framed_length {s : State} (h : s.begun = []) : State.Framed s.stream.length s :=
  framed_iff.2 ⟨[], by simp [h], le_rfl⟩

/-- Settles O56: the reset edge leaves no frame begun, and every other cycle extends or completes the begun frame
(`Cycle.extendsFrame`). -/
theorem stepKeepsTheStreamFramed : Obligations.StepKeepsTheStreamFramed := by
  intro base s t hs hf h
  rcases step_cases h with ⟨hr, rfl⟩ | ⟨hr, u, hcycle, rfl⟩
  · exact ⟨by simp [hr], fun _ => framed_length rfl⟩
  · exact ⟨fun _ => hcycle.extendsFrame.framed hs hf, by simp [hr]⟩

/-! ## The bytes at a frame's positions -/

/-- Byte `10k + j` of whole frames and the beginning of another one is byte `j` of a frame. -/
theorem getElem?_bytesOfFrames_append {g : Byte × Byte × Byte} {p : List Byte} (hp : p <+: bytesOfFrame g)
    {j : Nat} (hj : j < 10) (fs : List (Byte × Byte × Byte)) (k : Nat)
    (hk : 10 * k + j < (bytesOfFrames fs ++ p).length) :
    ∃ f, (bytesOfFrames fs ++ p)[10 * k + j]? = (bytesOfFrame f)[j]? := by
  induction fs generalizing k with
  | nil =>
    rw [bytesOfFrames_nil, List.nil_append] at hk ⊢
    have hlength := hp.length_le
    rw [length_bytesOfFrame] at hlength
    obtain rfl : k = 0 := by omega
    rw [Nat.mul_zero, Nat.zero_add] at hk ⊢
    obtain ⟨rest, hrest⟩ := hp
    exact ⟨g, by rw [← hrest, List.getElem?_append_left hk]⟩
  | cons f fs ih =>
    rw [bytesOfFrames_cons, List.append_assoc] at hk ⊢
    cases k with
    | zero => exact ⟨f, by rw [List.getElem?_append_left (by simpa using hj), Nat.mul_zero, Nat.zero_add]⟩
    | succ k =>
      rw [List.getElem?_append_right (by rw [length_bytesOfFrame]; omega), length_bytesOfFrame,
        show 10 * (k + 1) + j - 10 = 10 * k + j by omega]
      refine ih k ?_
      rw [List.length_append, length_bytesOfFrame] at hk
      omega

/-- The begun part is the beginning of some frame. -/
theorem State.Inv.begun_prefix {s : State} (h : s.Inv) : ∃ f, s.begun <+: bytesOfFrame f := by
  by_cases hp : s.phase = .send
  · obtain ⟨f, hf⟩ := h.frame_on_offer hp
    exact ⟨f, by rw [begun_of_send hp, hf]; exact List.take_prefix _ _⟩
  · exact ⟨(0, 0, 0), by simp [begun_of_not_send hp]⟩

/-- In a framed stream, byte `10k + j` after `base` is byte `j` of a frame. -/
theorem framed_getElem? {base k j : Nat} {s : State} (hs : s.Inv) (hf : State.Framed base s) (hj : j < 10)
    (hk : base + 10 * k + j < s.stream.length) :
    ∃ f, s.stream[base + 10 * k + j]? = (bytesOfFrame f)[j]? := by
  obtain ⟨fs, hdrop, hbase⟩ := framed_iff.1 hf
  obtain ⟨g, hg⟩ := hs.begun_prefix
  rw [Nat.add_assoc, ← List.getElem?_drop, hdrop]
  refine getElem?_bytesOfFrames_append hg hj fs k ?_
  rw [← hdrop, List.length_drop]
  omega

/-- Settles O57: the bytes are byte 0 and byte 9 of a frame, which `ENCODE` fixes (40_encoder.md R90). -/
theorem framedStreamHasItsMarkers : Obligations.FramedStreamHasItsMarkers := by
  intro base k s hs hf
  refine ⟨fun hk => ?_, fun hk => ?_⟩
  · obtain ⟨f, h⟩ := framed_getElem? (j := 0) hs hf (by decide) hk
    exact h.trans (by rw [bytesOfFrame, encodeFrame, frameBytes_packFrame]; rfl)
  · obtain ⟨f, h⟩ := framed_getElem? (j := 9) hs hf (by decide) hk
    exact h.trans (by rw [bytesOfFrame, encodeFrame, frameBytes_packFrame]; rfl)

end Sys2Proof.Machine

/-! SUPPORT and PROOFS. The encoding family: requests and frames through the decoder and back (30_encoding.md R60 to
R64), the assembly lines (R73), valid frames (R71) and the frames that operations start (R65 to R68). The key notion is
the layout: a request word is its opcode and its argument, a frame is `packFrame` of its fields, and a valid frame is
one whose checksum field is `checksum`. -/

namespace Sys2Proof.Machine

/-! ## Request words -/

@[simp] theorem extractLsb'_opcode_reqWord (op : BitVec 4) (arg : Half) : (reqWord op arg).extractLsb' 16 4 = op :=
  BitVec.extractLsb'_append_eq_left

@[simp] theorem extractLsb'_argument_reqWord (op : BitVec 4) (arg : Half) : (reqWord op arg).extractLsb' 0 16 = arg :=
  BitVec.extractLsb'_append_eq_right

/-- Every request word is that of its opcode and its argument. -/
theorem exists_eq_reqWord (w : BitVec 20) : ∃ op arg, w = reqWord op arg :=
  ⟨w.extractLsb' 16 4, w.extractLsb' 0 16,
    (BitVec.extractLsb'_append_extractLsb' (w := 4) (len := 16)).symm⟩

/-- Each of the sixteen opcodes selects the operation whose word has that opcode (30_encoding.md R61, R62). -/
theorem encode_decodeReq_reqWord (op : BitVec 4) (arg : Half) :
    encode (decodeReq (reqWord op arg)) = .req (reqWord op arg) := by
  rw [decodeReq, extractLsb'_opcode_reqWord, extractLsb'_argument_reqWord]
  obtain ⟨⟨n, hn⟩⟩ := op
  interval_cases n
  on_goal 6 => exact congrArg (fun a => InsnWord.req (reqWord 0x5#4 a)) (highByte_append_lowByte arg)
  all_goals rfl

/-- The word of a request shows its opcode, which decodes to the request again. -/
theorem exists_encode_request {i : Instr} (h : i.frameFields = none) :
    ∃ w, encode i = .req w ∧ decodeReq w = i := by
  cases i with
  | playfld d t => exact ⟨_, rfl, by simp [decodeReq]⟩
  | init | isonline | setvol | getvol | playtrk | pause | resume | stop | next | prev | volup | voldn | reservedD
  | reservedE | reservedF => exact ⟨_, rfl, by simp [decodeReq]⟩
  | _ => cases h

/-! ## Frames and their fields -/

/-- The instruction with the fields of a frame instruction is that instruction. -/
theorem instr_of_frameFields {i : Instr} {x : FrameFields} (h : i.frameFields = some x) : x.instr = i := by
  cases i <;> cases h <;> rfl

theorem encode_instr (x : FrameFields) :
    encode x.instr = .frame (packFrame x.command.code x.paramHigh x.paramLow x.checksum) := by
  obtain ⟨c, h, l, ck⟩ := x
  cases c <;> rfl

/-- Only a frame instruction has a frame as its word. -/
theorem exists_instr_of_encode_frame {i : Instr} {f : BitVec 80} (h : encode i = .frame f) :
    ∃ x : FrameFields, i = x.instr ∧ f = packFrame x.command.code x.paramHigh x.paramLow x.checksum := by
  cases hx : i.frameFields with
  | none =>
    obtain ⟨w, hw, -⟩ := exists_encode_request hx
    rw [hw] at h
    cases h
  | some x =>
    obtain rfl := instr_of_frameFields hx
    rw [encode_instr] at h
    cases h
    exact ⟨x, rfl, rfl⟩

/-- Settles O2: the word of a request shows its opcode and its argument (`exists_encode_request`), a packed frame its
fields (`decodeFrame_packFrame`). -/
theorem decodeOfEncode : Obligations.DecodeOfEncode := by
  intro i
  cases hx : i.frameFields with
  | some x =>
    rw [← instr_of_frameFields hx, encode_instr]
    exact decodeFrame_packFrame _ _ _ _
  | none =>
    obtain ⟨w, hw, hdecode⟩ := exists_encode_request hx
    rw [hw, decode, hdecode]

/-- Settles O3: the sixteen opcodes for a request word, and `decodeFrame_ok` for a frame. -/
theorem encodeOfDecode : Obligations.EncodeOfDecode := by
  intro w i h
  cases w with
  | req w =>
    obtain ⟨op, arg, rfl⟩ := exists_eq_reqWord w
    cases h
    exact encode_decodeReq_reqWord op arg
  | frame f =>
    obtain ⟨c, hi, lo, ck, rfl, rfl⟩ := decodeFrame_ok f i h
    exact encode_instr _

theorem decode_of_encode_eq {w : InsnWord} {i : Instr} (h : encode i = w) : decode w = .ok i :=
  h ▸ decodeOfEncode i

/-- A frame with right fixed bytes is rejected for its command byte (40_encoder.md R95). -/
theorem decodeFrame_undefinedCommand {c : Byte} (hc : commandOfByte c = none) (h l : Byte) (ck : Half) :
    decodeFrame (packFrame c h l ck) = .error (.undefinedCommand c) := by
  simp [decodeFrame, hc]

/-- Settles O1: nine of the words are `encode` of their instructions, and 07 is no command byte. -/
theorem sampleWordsDecode : Obligations.SampleWordsDecode :=
  ⟨decode_of_encode_eq (by decide), decode_of_encode_eq (by decide), decode_of_encode_eq (by decide),
    decode_of_encode_eq (by decide), decode_of_encode_eq (by decide), decode_of_encode_eq (by decide),
    decode_of_encode_eq (by decide), decode_of_encode_eq (by decide), decode_of_encode_eq (by decide),
    decodeFrame_undefinedCommand (c := 0x07#8) (by decide) 0x00#8 0x00#8 0xFEF4#16⟩

/-! ## The bytes of a 16-bit field as numbers -/

theorem highByte_toNat (x : Half) : (highByte x).toNat = x.toNat / 256 := by
  have := x.isLt
  rw [highByte, BitVec.extractLsb'_toNat, Nat.shiftRight_eq_div_pow]
  omega

theorem lowByte_toNat (x : Half) : (lowByte x).toNat = x.toNat % 256 := by
  rw [lowByte, BitVec.extractLsb'_toNat, Nat.shiftRight_zero]

/-! ## Assembly lines -/

theorem assemble_setvol {v : Int} (hlo : -32768 ≤ v) (hhi : v ≤ 32767) :
    assemble ⟨"SETVOL", [v]⟩ = some (reqWord 0x2#4 (BitVec.ofInt 16 v)) := by
  simp [assemble, hlo, hhi]

theorem assemble_playtrk {v : Int} (hlo : 0 ≤ v) (hhi : v ≤ 65535) :
    assemble ⟨"PLAYTRK", [v]⟩ = some (reqWord 0x4#4 (BitVec.ofInt 16 v)) := by
  simp [assemble, hlo, hhi]

theorem assemble_playfld {d t : Int} (hd : 0 ≤ d) (hd' : d ≤ 255) (ht : 0 ≤ t) (ht' : t ≤ 255) :
    assemble ⟨"PLAYFLD", [d, t]⟩ = some (reqWord 0x5#4 (BitVec.ofInt 16 (256 * d + t))) := by
  simp [assemble, hd, hd', ht, ht']

theorem decodeReq_setvol (v : Half) : decodeReq (reqWord 0x2#4 v) = .setvol v := by
  simp [decodeReq]

theorem decodeReq_playtrk (t : Half) : decodeReq (reqWord 0x4#4 t) = .playtrk t := by
  simp [decodeReq]

theorem decodeReq_playfld (a : Half) : decodeReq (reqWord 0x5#4 a) = .playfld (highByte a) (lowByte a) := by
  simp [decodeReq]

/-- Settles O4: an operand in its range is the number its field holds. -/
theorem assembledLinesDecodeToTheirOperations : Obligations.AssembledLinesDecodeToTheirOperations := by
  refine ⟨fun v hlo hhi => ?_, fun v hlo hhi => ?_, fun d t hd hd' ht ht' => ?_, by decide⟩
  · exact ⟨_, _, assemble_setvol hlo hhi, decodeReq_setvol _,
      BitVec.toInt_ofInt_eq_self (by decide) hlo (by omega)⟩
  · refine ⟨_, _, assemble_playtrk hlo hhi, decodeReq_playtrk _, ?_⟩
    rw [BitVec.toNat_ofInt]
    omega
  · refine ⟨_, _, _, assemble_playfld hd hd' ht ht', decodeReq_playfld _, ?_, ?_⟩
    · rw [highByte_toNat, BitVec.toNat_ofInt]
      omega
    · rw [lowByte_toNat, BitVec.toNat_ofInt]
      omega

/-! ## The fixed bits of a frame -/

theorem frameByte_and (f g : BitVec 80) (k : Nat) : frameByte (f &&& g) k = frameByte f k &&& frameByte g k :=
  BitVec.extractLsb'_and

/-- An 80-bit value is known by its ten bytes. -/
theorem eq_of_frameByte_eq {f g : BitVec 80} (h : ∀ k < 10, frameByte f k = frameByte g k) : f = g := by
  rw [← append_frameBytes f, ← append_frameBytes g]
  simp [h]

/-- The constant bytes of 30_encoding.md R64. -/
def HasFixedBytes (f : BitVec 80) : Prop :=
  frameByte f 0 = startByte ∧ frameByte f 1 = versionByte ∧ frameByte f 2 = lengthByte ∧
    frameByte f 4 = feedbackByte ∧ frameByte f 9 = endByte

/-- A byte that the mask keeps whole is the pattern's. -/
theorem frameByte_of_and_eq {f mask pattern : BitVec 80} (h : f &&& mask = pattern) {k : Nat}
    (hk : frameByte mask k = BitVec.allOnes 8) : frameByte f k = frameByte pattern k := by
  rw [← h, frameByte_and, hk, BitVec.and_allOnes]

/-- The mask of R64 keeps the five constant bytes whole and nothing of the others. -/
theorem and_mask_eq_iff (f : BitVec 80) :
    f &&& 0xFFFFFF00FF00000000FF#80 = 0x7EFF06000000000000EF#80 ↔ HasFixedBytes f := by
  constructor
  · intro h
    exact ⟨frameByte_of_and_eq (k := 0) h rfl, frameByte_of_and_eq (k := 1) h rfl, frameByte_of_and_eq (k := 2) h rfl,
      frameByte_of_and_eq (k := 4) h rfl, frameByte_of_and_eq (k := 9) h rfl⟩
  · rintro ⟨h0, h1, h2, h4, h9⟩
    apply eq_of_frameByte_eq
    intro k hk
    rw [frameByte_and]
    match k, hk with
    | 0, _ => rw [h0]; rfl
    | 1, _ => rw [h1]; rfl
    | 2, _ => rw [h2]; rfl
    | 4, _ => rw [h4]; rfl
    | 9, _ => rw [h9]; rfl
    | 3, _ | 5, _ | 6, _ | 7, _ | 8, _ => exact BitVec.and_zero

theorem mem_commandBytes_iff (b : Byte) : b ∈ commandCodes.map CommandCode.code ↔ ∃ c, CommandCode.code c = b := by
  rw [List.mem_map]
  refine exists_congr fun c => and_iff_right ?_
  cases c <;> decide

/-- What decodes to a frame: the fixed bytes, and the byte of a CommandCode. -/
theorem exists_decodeFrame_ok_iff (f : BitVec 80) :
    (∃ i, decodeFrame f = .ok i) ↔ HasFixedBytes f ∧ ∃ c, CommandCode.code c = frameByte f 3 := by
  constructor
  · rintro ⟨i, hi⟩
    obtain ⟨c, h, l, ck, rfl, -⟩ := decodeFrame_ok f i hi
    exact ⟨by simp [HasFixedBytes], c, by simp⟩
  · rintro ⟨⟨h0, h1, h2, h4, h9⟩, c, hc⟩
    rw [← packFrame_of_fixed f h0 h1 h2 h4 h9, ← hc]
    exact ⟨_, decodeFrame_packFrame _ _ _ _⟩

/-- Settles O5, by the bytes under the mask and the bytes of the nine CommandCodes. -/
theorem frameDecodesIffFixedBitsMatch : Obligations.FrameDecodesIffFixedBitsMatch := by
  intro f
  rw [and_mask_eq_iff, exists_decodeFrame_ok_iff, ← mem_commandBytes_iff]
  rfl

/-! ## Valid frames -/

/-- The checksum in the third form of 40_encoder.md R91. -/
theorem checksum_toNat_eq_sub (c h l : Byte) :
    (checksum c h l).toNat = 0xFEFB - (c.toNat + h.toNat + l.toNat) := by
  have hsum : frameSum c h l = 0xFF + 0x06 + c.toNat + 0x00 + h.toNat + l.toNat := rfl
  rw [checksum_toNat]
  omega

/-- The checksum law has one solution, the encoder's checksum (40_encoder.md R91). -/
theorem checksumLaw_iff (c h l : Byte) (ck : Half) : checksumLaw c h l ck = true ↔ ck = checksum c h l := by
  have := c.isLt
  have := h.isLt
  have := l.isLt
  have := ck.isLt
  rw [checksumLaw, beq_iff_eq, BitVec.toNat_eq, checksum_toNat_eq_sub]
  omega

/-- On a frame the validity predicate is the checksum law over its fields (30_encoding.md R71). -/
theorem validFrame_packFrame (c h l : Byte) (ck : Half) :
    validFrame (frameBytes (packFrame c h l ck)) = checksumLaw c h l ck := by
  have hck : 256 * (highByte ck).toNat + (lowByte ck).toNat = ck.toNat := by
    rw [highByte_toNat, lowByte_toNat, Nat.div_add_mod]
  rw [frameBytes_packFrame, validFrame, checksumLaw, Nat.add_assoc _ (256 * _), hck]
  rfl

/-- A sequence that the validity predicate accepts is the ten bytes of some frame. -/
theorem exists_packFrame_of_validFrame {bs : List Byte} (h : validFrame bs = true) :
    ∃ c hi lo ck, bs = frameBytes (packFrame c hi lo ck) := by
  unfold validFrame at h
  split at h
  next b0 b1 b2 b3 b4 b5 b6 b7 b8 b9 =>
    simp only [Bool.and_eq_true, beq_iff_eq] at h
    obtain ⟨⟨⟨⟨⟨rfl, rfl⟩, rfl⟩, rfl⟩, rfl⟩, -⟩ := h
    exact ⟨b3, b5, b6, b7 ++ b8, by rw [frameBytes_packFrame, highByte_append, lowByte_append]⟩
  next => cases h

theorem wellFormed_instr (x : FrameFields) :
    x.instr.wellFormed = checksumLaw x.command.code x.paramHigh x.paramLow x.checksum := by
  obtain ⟨c, h, l, ck⟩ := x
  cases c <;> rfl

/-- Settles O6: both sides are the checksum law over the frame's fields. -/
theorem wellFormedFrameIffValidBytes : Obligations.WellFormedFrameIffValidBytes := by
  intro i f h
  obtain ⟨x, rfl, rfl⟩ := exists_instr_of_encode_frame h
  rw [wellFormed_instr, validFrame_packFrame]

/-- Settles O7: a valid frame is a packed one, and the checksum law leaves one checksum field. -/
theorem validFrameIffEncoded : Obligations.ValidFrameIffEncoded := by
  intro bs
  constructor
  · intro h
    obtain ⟨c, hi, lo, ck, rfl⟩ := exists_packFrame_of_validFrame h
    rw [validFrame_packFrame, checksumLaw_iff] at h
    exact ⟨c, hi, lo, by rw [h, encodeFrame]⟩
  · rintro ⟨c, hi, lo, rfl⟩
    rw [encodeFrame, validFrame_packFrame, checksumLaw_iff]

/-! ## The frames that requests start -/

/-- The ten bytes of `ENCODE` as numbers (40_encoder.md R90, R91). -/
theorem frameBytes_encodeFrame_toNat (c h l : Byte) :
    (frameBytes (encodeFrame c h l)).map BitVec.toNat = frameNumbers c.toNat h.toNat l.toNat := by
  rw [encodeFrame, frameBytes_packFrame, frameNumbers, ← checksum_toNat_eq_sub, ← highByte_toNat, ← lowByte_toNat]
  rfl

/-- Storing a volume and starting a frame, in the terms of the statements. -/
theorem started_start (s : State) (v : BitVec 5) (c : CommandCode) (h l : Byte) :
    Started s ((s.setVol v).start c h l) v c.code.toNat h.toNat l.toNat :=
  ⟨rfl, frameBytes_encodeFrame_toNat _ _ _⟩

/-- Settles O15: the stored volume is the clamped operand (`clampVolume_toNat`), and the frame carries it. -/
theorem setvolStoresAndSendsTheClampedVolume : Obligations.SetvolStoresAndSendsTheClampedVolume := by
  intro v s
  refine ⟨decodeOfEncode (.setvol v), clampVolume (signed16 v), _, clampVolume_toNat _, rfl, ?_⟩
  rw [← volumeByte_toNat]
  exact started_start s _ .setVolume 0x00#8 _

/-- Settles O16: the track's two bytes are its quotient and its remainder by 256. -/
theorem playRequestsStartTheirFrames : Obligations.PlayRequestsStartTheirFrames := by
  refine ⟨fun track s => ⟨decodeOfEncode (.playtrk track), _, rfl, ?_⟩,
    fun folder track s => ⟨decodeOfEncode (.playfld folder track), _, rfl, started_start s s.vol .playFromFolder _ _⟩⟩
  rw [← highByte_toNat, ← lowByte_toNat]
  exact started_start s s.vol .play _ _

/-! ## The reserved opcodes and the ignored arguments -/

/-- Settles O20, each opcode by its meaning in 42_controller_ops.md R153. -/
theorem reservedOpcodesReturnZero : Obligations.ReservedOpcodesReturnZero :=
  fun _ _ => ⟨rfl, rfl, rfl⟩

/-- Settles O23: none of the thirteen meanings reads its argument. -/
theorem unusedArgumentsAreIgnored : Obligations.UnusedArgumentsAreIgnored :=
  fun _ _ _ => ⟨rfl, rfl, rfl, rfl, rfl, rfl, rfl, rfl, rfl, rfl, rfl, rfl, rfl⟩

/-! ## The frame on offer is one SGFE can emit -/

/-- `ENCODE` of a command with parameter bytes that R68 allows is a frame SGFE can emit. -/
theorem exists_emittable_encodeFrame {c : CommandCode} {h l : Byte} (hrule : parameterRule c h l = true) :
    ∃ i, decodeFrame (encodeFrame c.code h l) = .ok i ∧ i.emittable = true := by
  refine ⟨_, decodeFrame_packFrame _ _ _ _, ?_⟩
  simp only [Instr.emittable, frameFields_instr, wellFormed_instr, Bool.and_eq_true]
  exact ⟨(checksumLaw_iff _ _ _ _).2 rfl, hrule⟩

/-- What a cycle leaves in `SEND` it found there, or it is a frame built by the parameter rules of R68. -/
theorem Cycle.frame_kept_or_built {s u : State} (h : Cycle s u) (hv : s.vol.toNat ≤ 30) (hu : u.phase = .send) :
    (s.phase = .send ∧ u.fbuf = s.fbuf) ∨
      ∃ c hi lo, parameterRule c hi lo = true ∧ u.fbuf = encodeFrame (CommandCode.code c) hi lo := by
  cases h with
  | quiet hp hv' => exact .inl ⟨hu, rfl⟩
  | accept u ha he =>
    cases accepted_of_exec he with
    | finish v => cases hu
    | start v c hi lo issued legal => exact .inr ⟨c, hi, lo, (legal hv).2, rfl⟩
    | boot => cases hu
  | stall hp hb hr => exact .inl ⟨hp, rfl⟩
  | byte hp hb hr => exact .inl ⟨hp, rfl⟩
  | lastByte hp hb hr => cases hu
  | count n hp ht => exact .inl ⟨hu, rfl⟩
  | bootEnd hp ht => exact .inr ⟨.reset, 0x00#8, 0x00#8, rfl, rfl⟩
  | settleEndOperation hp ht hi => cases hu
  | settleEndReset hp ht hi => cases hu
  | settleEndInit hp ht hi => cases hu
  | resetWaitEnd hp ht =>
    exact .inr ⟨.setVolume, 0x00#8, volumeByte s.vol, by simpa [parameterRule] using hv, rfl⟩
  | done hp => cases hu

/-- Settles O37: a step keeps the frame on offer or loads one that the rules of R68 allow. -/
theorem stepKeepsTheFrameEmittable : Obligations.StepKeepsTheFrameEmittable := by
  intro s t hs h
  refine ⟨step_volume_legal hs.volume h, fun hp => ?_⟩
  rcases step_cases h with ⟨-, rfl⟩ | ⟨-, u, hcycle, rfl⟩
  · cases hp
  · rw [State.tick_fbuf]
    rcases hcycle.frame_kept_or_built hs.volume hp with ⟨hsend, hkept⟩ | ⟨c, hi, lo, hrule, hbuilt⟩
    · rw [hkept]
      exact hs.frame hsend
    · rw [hbuilt]
      exact exists_emittable_encodeFrame hrule

/-! ## The return of a request -/

/-- The events that the statement counts. -/
def Event.isReturn : Event → Bool
  | .ret _ => true
  | .tx _ => false
  | .wait _ => false

/-- A trace with one return, its last event, of the value `v`. -/
def ReturnsOnce (tr : List Event) (v : Byte) : Prop :=
  tr.countP Event.isReturn = 1 ∧ tr.getLast? = some (.ret v)

theorem returnsOnce_ret (v : Byte) : ReturnsOnce [.ret v] v := ⟨rfl, rfl⟩

/-- Events without a return may come before. -/
theorem ReturnsOnce.append_left {tr : List Event} {v : Byte} (h : ReturnsOnce tr v) {es : List Event}
    (hes : es.countP Event.isReturn = 0) : ReturnsOnce (es ++ tr) v := by
  obtain ⟨hcount, hlast⟩ := h
  exact ⟨by rw [List.countP_append, hes, hcount], by simp [List.getLast?_append, hlast]⟩

/-- The delivery of a frame is ten bytes and a wait (41_delivery.md R120). -/
theorem countP_isReturn_deliver (f : BitVec 80) : (deliver f).countP Event.isReturn = 0 := by
  simp [deliver, List.countP_eq_zero, Event.isReturn]

theorem returnsOnce_oneFrame (c : CommandCode) (h l : Byte) : ReturnsOnce (oneFrame c h l) 0x00#8 :=
  (returnsOnce_ret _).append_left (countP_isReturn_deliver _)

theorem returnsOnce_atLimit (p : Params) (a : Arch) : ReturnsOnce (performAtLimit p a).2 0x00#8 := by
  unfold performAtLimit
  split
  · exact returnsOnce_oneFrame _ _ _
  · exact returnsOnce_ret _

/-- VOLUP and VOLDN, on either side of their limit (R151, R152). -/
theorem returnsOnce_storeOrLimit (p : Params) (a : Arch) (v : BitVec 5) (room : Prop) [Decidable room] :
    ReturnsOnce (if room then performStore a v else performAtLimit p a).2 0x00#8 := by
  split
  · exact returnsOnce_oneFrame _ _ _
  · exact returnsOnce_atLimit p a

theorem returnsOnce_init (a : Arch) : ReturnsOnce (performInit a).2 0x00#8 := by
  apply (returnsOnce_ret _).append_left
  simp [List.countP_append, countP_isReturn_deliver, Event.isReturn]

/-- Settles O60, by the three shapes of a request's trace (42_controller_ops.md R156). -/
theorem everyRequestReturnsOnceAndLast : Obligations.EveryRequestReturnsOnceAndLast := by
  intro p i a hi
  cases i with
  | init x => exact returnsOnce_init a
  | setvol | playtrk | playfld | pause | resume | stop | next | prev => exact returnsOnce_oneFrame _ _ _
  | volup x => exact returnsOnce_storeOrLimit p a _ _
  | voldn x => exact returnsOnce_storeOrLimit p a _ _
  | isonline | getvol | reservedD | reservedE | reservedF => exact returnsOnce_ret _
  | _ => cases hi

end Sys2Proof.Machine

/-! SUPPORT and PROOFS. The encoder family: the checksum over every triple of bytes (40_encoder.md R90 to R93),
injectivity of `ENCODE` (R94) and the frames on offer in `SEND` (R104). The key fact is that nothing wraps: the sum of
bytes 1 to 6 and the checksum are natural numbers that add up to 10000 hexadecimal (`checksum_toNat`). -/

namespace Sys2Proof.Machine

/-! ## The forms of the checksum -/

/-- The first form of 40_encoder.md R91: the negated sum. -/
theorem checksum_toNat_eq_neg_emod (c h l : Byte) :
    ((checksum c h l).toNat : Int) = (-(frameSum c h l : Int)) % 65536 := by
  have := frameSum_bounds c h l
  rw [checksum_toNat]
  omega

/-- Inverting all sixteen bits of a number below 10000 hexadecimal. -/
theorem xor_ffff {n : Nat} (hn : n < 0x10000) : n ^^^ 0xFFFF = 0xFFFF - n := by
  have hnot : (BitVec.ofNat 16 n ^^^ BitVec.allOnes 16).toNat = (~~~BitVec.ofNat 16 n).toNat :=
    congrArg BitVec.toNat BitVec.xor_allOnes
  rw [BitVec.toNat_xor, BitVec.toNat_not, BitVec.toNat_ofNat, Nat.mod_eq_of_lt hn] at hnot
  exact hnot

/-- The second form of R91: invert the sum and add one. -/
theorem checksum_toNat_eq_xor_add_one (c h l : Byte) :
    (checksum c h l).toNat = ((frameSum c h l ^^^ 0xFFFF) + 1) % 65536 := by
  have := frameSum_bounds c h l
  rw [checksum_toNat, xor_ffff (by omega)]
  omega

/-- The third form of R91, without a subtraction. -/
theorem checksum_toNat_add_operands (c h l : Byte) :
    (checksum c h l).toNat + (c.toNat + h.toNat + l.toNat) = 0xFEFB := by
  have hsum : frameSum c h l = 0xFF + 0x06 + c.toNat + 0x00 + h.toNat + l.toNat := rfl
  have := frameSum_bounds c h l
  rw [checksum_toNat]
  omega

/-- Settles O10, one lemma for each form. -/
theorem threeFormsOfTheChecksum : Obligations.ThreeFormsOfTheChecksum := fun c h l =>
  ⟨checksum_toNat_eq_neg_emod c h l, checksum_toNat_eq_xor_add_one c h l, checksum_toNat_add_operands c h l⟩

/-- 40_encoder.md R92 (c). -/
theorem checksum_bounds (c h l : Byte) : 0xFBFE ≤ (checksum c h l).toNat ∧ (checksum c h l).toNat ≤ 0xFEFB := by
  have := frameSum_bounds c h l
  rw [checksum_toNat]
  omega

/-- Settles O11: the high byte is the quotient by 256 of a number between FBFE and FEFB. -/
theorem checksumStaysInItsRange : Obligations.ChecksumStaysInItsRange := by
  intro c h l
  obtain ⟨hsumLow, hsumHigh⟩ := frameSum_bounds c h l
  obtain ⟨hlow, hhigh⟩ := checksum_bounds c h l
  refine ⟨hsumLow, hsumHigh, hlow, hhigh, ?_⟩
  simp only [List.mem_cons, List.not_mem_nil, or_false, BitVec.toNat_eq, highByte_toNat, BitVec.toNat_ofNat]
  omega

/-! ## The bytes of `ENCODE` -/

/-- Bytes 1 to 6 of a frame are those that the checksum is over (40_encoder.md R90). -/
theorem sum_frameByte_encodeFrame (c h l : Byte) :
    (frameByte (encodeFrame c h l) 1).toNat + (frameByte (encodeFrame c h l) 2).toNat +
      (frameByte (encodeFrame c h l) 3).toNat + (frameByte (encodeFrame c h l) 4).toNat +
      (frameByte (encodeFrame c h l) 5).toNat + (frameByte (encodeFrame c h l) 6).toNat = frameSum c h l := by
  simp [encodeFrame, frameSum]

/-- Bytes 7 and 8 of a frame are its checksum, the high byte first. -/
theorem checksumField_encodeFrame (c h l : Byte) :
    256 * (frameByte (encodeFrame c h l) 7).toNat + (frameByte (encodeFrame c h l) 8).toNat =
      (checksum c h l).toNat := by
  rw [encodeFrame, frameByte_packFrame_7, frameByte_packFrame_8, highByte_toNat, lowByte_toNat, Nat.div_add_mod]

/-- Settles O8: the six bytes add up to `frameSum`, the checksum field is `checksum`. -/
theorem checksumRoundTrip : Obligations.ChecksumRoundTrip := by
  intro c h l f
  have hsum : f 1 + f 2 + f 3 + f 4 + f 5 + f 6 = frameSum c h l := sum_frameByte_encodeFrame c h l
  have hfield : 256 * f 7 + f 8 = (checksum c h l).toNat := checksumField_encodeFrame c h l
  rw [Nat.add_assoc _ (256 * f 7), hsum, hfield]
  refine ⟨?_, (checksum_toNat_eq_neg_emod c h l).symm⟩
  have := frameSum_bounds c h l
  rw [checksum_toNat]
  omega

/-- Settles O9: the layout of a frame, and the two bytes of its checksum field as quotient and remainder. -/
theorem encodeGivesTheTenBytes : Obligations.EncodeGivesTheTenBytes := by
  intro c h l sum ck
  have hck : (checksum c h l).toNat = ck := by
    rw [checksum, BitVec.toNat_ofNat]
    exact Nat.mod_mod _ _
  rw [encodeFrame, frameBytes_packFrame, ← hck, ← highByte_toNat, ← lowByte_toNat]
  rfl

/-- Settles O12: bytes 3, 5 and 6 of a frame are its command and parameter bytes. -/
theorem encodeIsInjective : Obligations.EncodeIsInjective := by
  intro c h l c' h' l' heq
  have hbyte : ∀ k, frameByte (encodeFrame c h l) k = frameByte (encodeFrame c' h' l') k := fun k => by rw [heq]
  exact ⟨by simpa [encodeFrame] using hbyte 3, by simpa [encodeFrame] using hbyte 5,
    by simpa [encodeFrame] using hbyte 6⟩

/-! ## The frame on offer carries an issued command -/

/-- A frame SGFE can emit is `ENCODE` of a command with parameter bytes that R68 allows (30_encoding.md R71), the
converse of `exists_emittable_encodeFrame`. -/
theorem exists_encodeFrame_of_emittable {f : BitVec 80} {i : Instr} (hf : decodeFrame f = .ok i)
    (hi : i.emittable = true) :
    ∃ c h l, parameterRule c h l = true ∧ f = encodeFrame (CommandCode.code c) h l := by
  obtain ⟨c, h, l, ck, rfl, rfl⟩ := decodeFrame_ok f i hf
  simp only [Instr.emittable, frameFields_instr, wellFormed_instr, Bool.and_eq_true, checksumLaw_iff] at hi
  obtain ⟨rfl, hrule⟩ := hi
  exact ⟨c, h, l, hrule, rfl⟩

/-- No parameter bytes go with QueryStatus (40_encoder.md R104). -/
theorem ne_queryStatus_of_parameterRule {c : CommandCode} {h l : Byte} (hrule : parameterRule c h l = true) :
    c ≠ .queryStatus := by
  rintro rfl
  cases hrule

/-- Settles O38: the frame on offer is `ENCODE` of an issued command, and so it is valid (`validFrameIffEncoded`). -/
theorem onlyIssuedCommandsAreSent : Obligations.OnlyIssuedCommandsAreSent := by
  intro s hs hp
  obtain ⟨i, hdecode, hemit⟩ := hs.frame hp
  obtain ⟨c, h, l, hrule, hfbuf⟩ := exists_encodeFrame_of_emittable hdecode hemit
  have hcommand : frameByte s.fbuf 3 = c.code := by rw [hfbuf, encodeFrame, frameByte_packFrame_3]
  have hissued : frameByte s.fbuf 3 ∈ issuedCodes :=
    hcommand ▸ code_mem_issuedCodes (ne_queryStatus_of_parameterRule hrule)
  have hnotQuery : 0x42#8 ∉ issuedCodes := by decide
  exact ⟨hissued, fun hquery => hnotQuery (hquery ▸ hissued),
    (validFrameIffEncoded _).2 ⟨c.code, h, l, congrArg frameBytes hfbuf⟩⟩

end Sys2Proof.Machine

/-! SUPPORT and PROOFS. The delivery family: the accept cycle opcode by opcode, the sequencer's cycles phase by phase,
and spans of cycles from the accept cycle to the return (41_delivery.md R122 to R136). -/

namespace Sys2Proof.Machine

/-! ## The accept cycle of each request -/

/-- Settles O13: the boot wait has 500 ms (00_scope.md R6). -/
theorem initBeginsTheBootWait : Obligations.InitBeginsTheBootWait := fun _ _ => rfl

/-- Settles O14: the two registers, zero-extended to a byte. -/
theorem queriesReturnTheirRegister : Obligations.QueriesReturnTheirRegister :=
  fun _ s => ⟨rfl, volumeByte s.vol, volumeByte_toNat _, rfl⟩

/-- Settles O17: each of the five starts a frame and stores the volume that is there. -/
theorem plainRequestsStartTheirFrames : Obligations.PlainRequestsStartTheirFrames :=
  fun _ s =>
    ⟨⟨_, rfl, started_start s s.vol .pause 0 0⟩, ⟨_, rfl, started_start s s.vol .pause 0 0⟩,
      ⟨_, rfl, started_start s s.vol .stop 0 0⟩, ⟨_, rfl, started_start s s.vol .next 0 0⟩,
      ⟨_, rfl, started_start s s.vol .prev 0 0⟩⟩

section Volume

variable {s : State}

theorem exec_volup_room (a : Half) (h : s.vol.toNat < 30) : exec (.volup a) s = storeVolume s (s.vol + 1) := if_pos h

theorem exec_volup_limit (a : Half) (h : 30 ≤ s.vol.toNat) : exec (.volup a) s = volumeAtLimit s := if_neg (by omega)

theorem exec_voldn_room (a : Half) (h : 0 < s.vol.toNat) : exec (.voldn a) s = storeVolume s (s.vol - 1) := if_pos h

theorem exec_voldn_limit (a : Half) (h : s.vol.toNat = 0) : exec (.voldn a) s = volumeAtLimit s := if_neg (by omega)

theorem volumeAtLimit_sends (h : s.params.stepAtLimitSends = true) :
    volumeAtLimit s = .next (s.start .setVolume 0x00#8 (volumeByte s.vol)) := if_pos h

theorem volumeAtLimit_silent (h : s.params.stepAtLimitSends = false) :
    volumeAtLimit s = .next (s.finish 0x00#8) := if_neg (by simp [h])

/-- Storing and sending a volume, in the terms of the statements. -/
theorem started_store (s : State) {v : BitVec 5} {n : Nat} (h : v.toNat = n) :
    ∃ t, storeVolume s v = .next t ∧ t.vol.toNat = n ∧ Started s t t.vol 0x06 0 n := by
  subst h
  refine ⟨_, rfl, rfl, ?_⟩
  rw [← volumeByte_toNat v]
  exact started_start s v .setVolume 0x00#8 _

/-- Sending the unchanged volume, in the terms of the statements. -/
theorem started_atLimit {n : Nat} (hvol : s.vol.toNat = n) (h : s.params.stepAtLimitSends = true) :
    ∃ t, volumeAtLimit s = .next t ∧ Started s t s.vol 0x06 0 n := by
  subst hvol
  refine ⟨_, volumeAtLimit_sends h, ?_⟩
  rw [← volumeByte_toNat s.vol]
  exact started_start s s.vol .setVolume 0x00#8 _

end Volume

/-- Settles O18: there is room for one more (`started_store`), or VOLUP is at its limit (`started_atLimit`). -/
theorem volupStepsUpOrStaysAtItsLimit : Obligations.VolupStepsUpOrStaysAtItsLimit := by
  intro a s
  refine ⟨fun hroom => ?_, fun hlimit hsends => ?_, fun hlimit hsilent => ?_⟩
  · rw [exec_volup_room a hroom]
    exact started_store s (vol_succ_toNat _ hroom)
  · rw [exec_volup_limit a hlimit]
    exact started_atLimit rfl hsends
  · rw [exec_volup_limit a hlimit, volumeAtLimit_silent hsilent]
    rfl

/-- Settles O19, as O18 with the limit at 0. -/
theorem voldnStepsDownOrStaysAtItsLimit : Obligations.VoldnStepsDownOrStaysAtItsLimit := by
  intro a s
  refine ⟨fun hroom => ?_, fun hlimit hsends => ?_, fun hlimit hsilent => ?_⟩
  · rw [exec_voldn_room a hroom]
    exact started_store s (vol_pred_toNat _ hroom)
  · rw [exec_voldn_limit a hlimit]
    exact started_atLimit hlimit hsends
  · rw [exec_voldn_limit a hlimit, volumeAtLimit_silent hsilent]
    rfl

/-! ## A step runs the instruction at hand -/

theorem step_of_request {s : State} (hr : s.pins.rst = false) (hp : s.phase = .idle) (hv : s.pins.reqValid = true) :
    step s = clocked (exec (decodeReq (reqWord s.pins.reqOp s.pins.reqArg)) s) :=
  step_accept s ((accepts_iff hr).2 ⟨hp, hv⟩)

/-- Settles O27, from the step of an accept cycle and of `SEND`. -/
theorem stepRunsTheDecodedInstruction : Obligations.StepRunsTheDecodedInstruction := by
  refine ⟨fun s hp hv hr i hi => ?_, fun s hp hr i hi => ?_, fun t => rfl⟩
  · cases hi
    exact step_of_request hr hp hv
  · rw [step_send s hr hp, exec_decodeFrame _ i hi]

/-! ## The accept cycle by opcode -/

/-- The clock edge moves the inputs only. -/
theorem becomes_clocked {a : Answer} {u : State} (h : a = .next u) : Becomes (clocked a) u := by
  subst h
  exact ⟨u.tick, rfl, rfl⟩

/-- The clamp of R67, as a choice between volumes. -/
theorem clampVolume_eq_ite (v : Int) :
    clampVolume v = if v < 0 then 0 else if v > 30 then 30 else BitVec.ofInt 5 v := by
  unfold clampVolume clamp volMin volMax
  split_ifs <;> rfl

/-- VOLUP and VOLDN: with room the volume `v` is stored and sent, at the limit the parameter decides (C5). -/
theorem store_or_atLimit (s : State) (v : BitVec 5) (room : Prop) [Decidable room] :
    (if room then storeVolume s v else volumeAtLimit s) = .next
      (if room then (s.setVol v).start .setVolume 0x00#8 (volumeByte v)
      else if s.params.stepAtLimitSends then s.start .setVolume 0x00#8 (volumeByte s.vol)
      else s.finish 0x00#8) := by
  unfold storeVolume volumeAtLimit
  split_ifs <;> rfl

/-- Settles O21: an accept cycle executes the operation of its opcode, and the clock edge moves the inputs only. -/
theorem idleCycleLoadsWhatTheRequestSays : Obligations.IdleCycleLoadsWhatTheRequestSays := by
  intro s hp hr a v c start finish limit
  have hc : clampVolume (signed16 a) = c := clampVolume_eq_ite v
  refine ⟨fun hv => ?_, fun hv => ?_⟩
  · rw [step_quiet s hr hp hv]
    exact becomes_clocked rfl
  rw [step_of_request hr hp hv, decodeReq, extractLsb'_opcode_reqWord, extractLsb'_argument_reqWord]
  generalize s.pins.reqOp = op
  obtain ⟨⟨n, hn⟩⟩ := op
  interval_cases n
  -- SETVOL is the third opcode, VOLUP and VOLDN follow the first eleven
  on_goal 3 => rw [← hc]
  iterate 2 on_goal 12 => exact becomes_clocked (store_or_atLimit s _ _)
  all_goals exact becomes_clocked rfl

/-! ## The bytes of a frame -/

theorem getElem?_frameBytes (f : BitVec 80) {k : Nat} {b : Byte} (h : (frameBytes f)[k]? = some b) :
    k < 10 ∧ b = frameByte f k := by
  obtain ⟨hk, rfl⟩ := List.getElem?_eq_some_iff.1 h
  exact ⟨by simpa [frameBytes] using hk, by simp [frameBytes]⟩

/-- Settles O25: a frame's cycle is a cycle of `SEND` (`exec_frame`), and the ten bytes are those of its layout. -/
theorem framesHandOverTheirBytes : Obligations.FramesHandOverTheirBytes := by
  intro i x s b hx hb
  have hbyte : (frameBytes (packFrame x.command.code x.paramHigh x.paramLow x.checksum))[s.bidx.toNat]? = some b := by
    rw [frameBytes_packFrame]
    exact hb
  rw [exec_frame i x hx]
  generalize packFrame x.command.code x.paramHigh x.paramLow x.checksum = f at hbyte ⊢
  obtain ⟨hk, rfl⟩ := getElem?_frameBytes f hbyte
  rcases sendByte_cases f s with
    ⟨hlarge, -⟩ | ⟨-, hready, he⟩ | ⟨hlt, hready, he⟩ | ⟨hlast, hready, he⟩
  · omega
  · rw [he, if_pos hready]
  · rw [he, if_neg (by simp [hready]), if_pos hlt]
    rfl
  · rw [he, if_neg (by simp [hready]), if_neg (by omega), hlast]
    rfl

/-! ## The sequencer's cycles -/

section Send

variable (f : BitVec 80) {s : State}

theorem sendByte_beyond (hb : 9 < s.bidx.toNat) : sendByte f s = .refused .unreachableByteIndex := if_pos hb

theorem sendByte_stall (hb : s.bidx.toNat ≤ 9) (hr : s.pins.txReady = false) : sendByte f s = .next s := by
  rw [sendByte, if_neg (by omega), if_pos hr]

theorem sendByte_next (hb : s.bidx.toNat < 9) (hr : s.pins.txReady = true) :
    sendByte f s = .next { s.emit (.tx (frameByte f s.bidx.toNat)) with bidx := s.bidx + 1 } := by
  rw [sendByte, if_neg (by omega), if_neg (by simp [hr]), if_pos hb]

theorem sendByte_last (hb : s.bidx.toNat = 9) (hr : s.pins.txReady = true) :
    sendByte f s = .next ((s.emit (.tx (frameByte f 9))).startWait (nSettle s.params) .settle) := by
  rw [sendByte, if_neg (by omega), if_neg (by simp [hr]), if_neg (by omega)]

end Send

theorem waitCycle_count (exit : State → Answer) {s : State} (h : 1 < s.tmr) :
    waitCycle exit s = .next { s with tmr := s.tmr - 1 } := by
  obtain ⟨n, hn⟩ := Nat.exists_eq_add_of_le' h
  simp [waitCycle, hn]

/-- The exit action of a wait phase (41_delivery.md R129, R130). -/
def waitExit : Phase → State → Answer
  | .bootw => bootwExit
  | .rstw => rstwExit
  | .settle => settleExit
  | .idle | .send | .done | .unused6 | .unused7 => fun _ => .refused .unreachablePhase

theorem step_wait (s : State) {m : Nat} (hr : s.pins.rst = false) (hp : waitLength s.params s.phase = some m) :
    step s = clocked (waitCycle (waitExit s.phase) s) := by
  cases h : s.phase with
  | bootw => exact step_bootw s hr h
  | settle => exact step_settle s hr h
  | rstw => exact step_rstw s hr h
  | idle | send | done | unused6 | unused7 =>
    rw [h] at hp
    cases hp

theorem initStg_cases (k : BitVec 2) : k = 0#2 ∨ k = 1#2 ∨ k = 2#2 ∨ k = 3#2 := by
  revert k
  decide

theorem settleExit_operation {s : State} (h : s.initStg = 0#2) :
    settleExit s = .next { s.emit (.wait tSettleMs) with phase := .done } := by
  simp [settleExit, h]

theorem settleExit_reset {s : State} (h : s.initStg = 1#2) :
    settleExit s = .next ((s.emit (.wait tSettleMs)).startWait (nReset s.params) .rstw) := by
  simp [settleExit, h]

theorem settleExit_init {s : State} (h : s.initStg = 2#2) :
    settleExit s = .next { s.emit (.wait tSettleMs) with online := true, initStg := 0, phase := .done } := by
  simp [settleExit, h]

theorem settleExit_unreachable {s : State} (h : s.initStg = 3#2) : settleExit s = .refused .unreachableInitStage := by
  simp [settleExit, h]

/-- The registers of an answer, whatever the trace and the inputs are. -/
theorem movesTo_clocked {a : Answer} {w : State} {tr : List Event} (h : a = .next { w with trace := tr }) :
    MovesTo (clocked a) w := by
  subst h
  exact ⟨_, rfl, rfl⟩

/-- A wait phase counts down without touching another register. -/
theorem movesTo_count {s : State} {m : Nat} (hr : s.pins.rst = false) (hp : waitLength s.params s.phase = some m)
    (h : 1 < s.tmr) : MovesTo (step s) { s with tmr := s.tmr - 1 } := by
  rw [step_wait s hr hp]
  exact movesTo_clocked (waitCycle_count _ h)

/-- Settles O29: the wait counts (`movesTo_count`), then each stage of INIT has its exit. -/
theorem settleCycleEndsByInitStage : Obligations.SettleCycleEndsByInitStage := by
  intro s hp hr
  refine ⟨movesTo_count hr (by rw [hp]; rfl), ?_⟩
  rw [step_settle s hr hp]
  refine ⟨fun ht hi => ?_, fun ht hi => ?_, fun ht hi => ?_⟩ <;> rw [waitCycle_one _ ht]
  · exact movesTo_clocked (settleExit_operation hi)
  · exact movesTo_clocked (settleExit_reset hi)
  · exact movesTo_clocked (settleExit_init hi)

/-- Settles O30: the waits count (`movesTo_count`), then each loads its frame. -/
theorem longWaitsEndInTheirFrames : Obligations.LongWaitsEndInTheirFrames := by
  intro s hr
  refine ⟨fun hp => ?_, fun hp ht => ?_, fun hp ht => ?_⟩
  · rcases hp with hp | hp <;> exact movesTo_count hr (by rw [hp]; rfl)
  · rw [step_bootw s hr hp, waitCycle_one _ ht]
    exact movesTo_clocked rfl
  · rw [step_rstw s hr hp, waitCycle_one _ ht]
    exact movesTo_clocked rfl

/-! ## Which pins a cycle looks at -/

/-- The machine with other input pins in this cycle. -/
def State.setPins (s : State) (p : Pins) : State := { s with pins := p }

theorem clocked_volumeAtLimit_setPins (s : State) (p : Pins) :
    clocked (volumeAtLimit (s.setPins p)) = clocked (volumeAtLimit s) := by
  cases h : s.params.stepAtLimitSends with
  | false => rw [volumeAtLimit_silent h, volumeAtLimit_silent (s := s.setPins p) h]; rfl
  | true => rw [volumeAtLimit_sends h, volumeAtLimit_sends (s := s.setPins p) h]; rfl

/-- No request looks at the pins beyond its own argument, and the clock edge replaces them. -/
theorem clocked_exec_setPins {i : Instr} (hi : i.isRequest = true) (s : State) (p : Pins) :
    clocked (exec i (s.setPins p)) = clocked (exec i s) := by
  cases i with
  | volup a =>
    rcases Nat.lt_or_ge s.vol.toNat 30 with h | h
    · rw [exec_volup_room a h, exec_volup_room (s := s.setPins p) a h]; rfl
    · rw [exec_volup_limit a h, exec_volup_limit (s := s.setPins p) a h, clocked_volumeAtLimit_setPins]
  | voldn a =>
    rcases Nat.eq_zero_or_pos s.vol.toNat with h | h
    · rw [exec_voldn_limit a h, exec_voldn_limit (s := s.setPins p) a h, clocked_volumeAtLimit_setPins]
    · rw [exec_voldn_room a h, exec_voldn_room (s := s.setPins p) a h]; rfl
  | init | isonline | setvol | getvol | playtrk | playfld | pause | resume | stop | next | prev | reservedD | reservedE
  | reservedF => rfl
  | _ => cases hi

/-- A `SEND` cycle looks at `tx_ready` only. -/
theorem clocked_sendByte_setPins (f : BitVec 80) (s : State) {p : Pins} (hp : p.txReady = s.pins.txReady) :
    clocked (sendByte f (s.setPins p)) = clocked (sendByte f s) := by
  rcases sendByte_cases f s with ⟨hb, he⟩ | ⟨hb, hr, he⟩ | ⟨hb, hr, he⟩ | ⟨hb, hr, he⟩ <;> rw [he]
  · rw [sendByte_beyond f (s := s.setPins p) hb]
  · rw [sendByte_stall f (s := s.setPins p) hb (hp.trans hr)]; rfl
  · rw [sendByte_next f (s := s.setPins p) hb (hp.trans hr)]; rfl
  · rw [sendByte_last f (s := s.setPins p) hb (hp.trans hr)]; rfl

theorem clocked_settleExit_setPins (s : State) (p : Pins) :
    clocked (settleExit (s.setPins p)) = clocked (settleExit s) := by
  rcases initStg_cases s.initStg with h | h | h | h
  · rw [settleExit_operation h, settleExit_operation (s := s.setPins p) h]; rfl
  · rw [settleExit_reset h, settleExit_reset (s := s.setPins p) h]; rfl
  · rw [settleExit_init h, settleExit_init (s := s.setPins p) h]; rfl
  · rw [settleExit_unreachable h, settleExit_unreachable (s := s.setPins p) h]

theorem clocked_waitExit_setPins (ph : Phase) (s : State) (p : Pins) :
    clocked (waitExit ph (s.setPins p)) = clocked (waitExit ph s) := by
  cases ph with
  | settle => exact clocked_settleExit_setPins s p
  | idle | bootw | send | rstw | done | unused6 | unused7 => rfl

/-- A wait looks at no pin. -/
theorem clocked_waitCycle_setPins (ph : Phase) (s : State) (p : Pins) :
    clocked (waitCycle (waitExit ph) (s.setPins p)) = clocked (waitCycle (waitExit ph) s) := by
  have ht : (s.setPins p).tmr = s.tmr := rfl
  rcases Nat.lt_trichotomy s.tmr 1 with h | h | h
  · rw [waitCycle_zero _ (by omega), waitCycle_zero _ (by omega)]
  · rw [waitCycle_one _ h, waitCycle_one _ (ht.trans h), clocked_waitExit_setPins]
  · rw [waitCycle_count _ h, waitCycle_count _ (by omega)]
    rfl

/-- The input pins that a cycle looks at (41_delivery.md R124, R125, R173): `rst`; without it the request pins in
`IDLE` and `tx_ready` in `SEND`. -/
structure SeenAlike (s : State) (p : Pins) : Prop where
  rst : p.rst = s.pins.rst
  request : s.phase = .idle → s.pins.rst = false →
    p.reqValid = s.pins.reqValid ∧ p.reqOp = s.pins.reqOp ∧ p.reqArg = s.pins.reqArg
  ready : s.phase = .send → s.pins.rst = false → p.txReady = s.pins.txReady

/-- A step depends on the pins it looks at only. -/
theorem SeenAlike.step_eq {s : State} {p : Pins} (h : SeenAlike s p) : step (s.setPins p) = step s := by
  cases hr : s.pins.rst with
  | true => rw [step_rst s hr, step_rst (s.setPins p) (h.rst.trans hr)]; rfl
  | false =>
    have hr' : (s.setPins p).pins.rst = false := h.rst.trans hr
    cases hp : s.phase with
    | idle =>
      obtain ⟨hvalid, hop, harg⟩ := h.request hp hr
      cases hv : s.pins.reqValid with
      | false => rw [step_quiet s hr hp hv, step_quiet (s.setPins p) hr' hp (hvalid.trans hv)]; rfl
      | true =>
        rw [step_of_request hr hp hv, step_of_request hr' hp (hvalid.trans hv),
          clocked_exec_setPins (decodeReq_isRequest _)]
        simp only [State.setPins, hop, harg]
    | send =>
      rw [step_send s hr hp, step_send (s.setPins p) hr' hp, clocked_sendByte_setPins _ _ (h.ready hp hr)]
      rfl
    | bootw | settle | rstw =>
      obtain ⟨m, hw⟩ : ∃ m, waitLength s.params s.phase = some m := ⟨_, by rw [hp]; rfl⟩
      rw [step_wait s hr hw, step_wait (s.setPins p) hr' hw, clocked_waitCycle_setPins]
      rfl
    | done => rw [step_done s hr hp, step_done (s.setPins p) hr' hp]; rfl
    | unused6 => rw [step_unused s hr (.inl hp), step_unused (s.setPins p) hr' (.inl hp)]
    | unused7 => rw [step_unused s hr (.inr hp), step_unused (s.setPins p) hr' (.inr hp)]

/-- Settles O44: outside `IDLE` and under `rst` the request pins are none of those a cycle looks at. -/
theorem busyMachineIgnoresTheRequestPins : Obligations.BusyMachineIgnoresTheRequestPins := by
  rintro s _ ⟨v, op, arg, rfl⟩ hbusy
  exact SeenAlike.step_eq ⟨rfl, fun hp hr => by simp [hp, hr] at hbusy, fun _ _ => rfl⟩

/-- Settles O45: outside `SEND` and under `rst` the pin `tx_ready` is none of those a cycle looks at. -/
theorem txReadyMattersInSendOnly : Obligations.TxReadyMattersInSendOnly := by
  intro s b hbusy
  exact SeenAlike.step_eq (p := { s.pins with txReady := b })
    ⟨rfl, fun _ _ => ⟨rfl, rfl, rfl⟩, fun hp hr => by simp [hp, hr] at hbusy⟩

/-- Settles O31; that the request pins are not looked at is O44. -/
theorem doneCycleReturns : Obligations.DoneCycleReturns := by
  intro s hp hr
  have hvalid : s.rspValid = true := by simp [State.rspValid, hp, hr]
  refine ⟨hvalid, if_pos hvalid, ?_, fun t ht => busyMachineIgnoresTheRequestPins s t ht (.inl (by simp [hp]))⟩
  rw [step_done s hr hp]
  exact becomes_clocked rfl

/-! ## Where `PHASE` goes -/

/-- VOLUP and VOLDN send a frame with room, or by `STEP_AT_LIMIT_SENDS`. -/
theorem phase_room_or_sends {room sends : Prop} [Decidable room] [Decidable sends] {a b c : State}
    (ha : a.phase = .send) (hb : b.phase = .send) (hc : c.phase = .done) :
    (if room then a else if sends then b else c).phase = if room ∨ sends then .send else .done := by
  by_cases hroom : room
  · rw [if_pos hroom, if_pos (.inl hroom), ha]
  by_cases hsends : sends
  · rw [if_neg hroom, if_pos hsends, if_pos (.inr hsends), hb]
  · rw [if_neg hroom, if_neg hsends, if_neg (by tauto), hc]

/-- The phase after an accept cycle, by the opcode (41_delivery.md R127, R134). -/
theorem accept_phase {s t : State} (hr : s.pins.rst = false) (hp : s.phase = .idle) (hv : s.pins.reqValid = true)
    (h : step s = .next t) :
    match s.pins.reqOp.toNat with
    | 0x0 => t.phase = .bootw
    | 0x1 | 0x3 | 0xD | 0xE | 0xF => t.phase = .done
    | 0xB => t.phase = if s.vol.toNat < 30 ∨ s.params.stepAtLimitSends = true then .send else .done
    | 0xC => t.phase = if 0 < s.vol.toNat ∨ s.params.stepAtLimitSends = true then .send else .done
    | _ => t.phase = .send := by
  obtain ⟨t', ht, hregs⟩ := (idleCycleLoadsWhatTheRequestSays s hp hr).2 hv
  obtain rfl : t = t' := by simpa [h] using ht
  replace hregs := congrArg State.phase hregs
  revert hregs
  generalize s.pins.reqOp = op
  obtain ⟨⟨n, hn⟩⟩ := op
  interval_cases n
  all_goals intro hregs
  -- VOLUP and VOLDN follow the first eleven opcodes
  iterate 2 on_goal 12 => exact hregs.trans (phase_room_or_sends rfl rfl rfl)
  all_goals exact hregs

/-- Settles O32: an accept cycle goes where its opcode says (`accept_phase`), every other cycle by the inversion of a
step. -/
theorem phaseTransitionsAreThoseListed : Obligations.PhaseTransitionsAreThoseListed := by
  intro s t h
  rcases step_cases h with ⟨hr, rfl⟩ | ⟨hr, u, hcycle, rfl⟩
  · rw [if_pos hr]
    rfl
  rw [if_neg (by simp [hr]), State.tick_phase]
  cases hcycle with
  | quiet hp hv => simp [hp, hv]
  | accept u ha he =>
    obtain ⟨hp, hv⟩ := (accepts_iff hr).1 ha
    simp only [hp, hv, Bool.true_eq_false, if_false]
    exact (accept_phase hr hp hv h :)
  | stall hp hb hready => simp [hp, hready]
  | byte hp hb hready => simp [hp, hb.ne]
  | lastByte hp hb hready => simp [hp, hb, hready]
  | count n hp ht => rcases hp with hp | hp | hp <;> simp [hp, ht]
  | bootEnd hp ht => simp [hp, ht]
  | settleEndOperation hp ht hi => simp [hp, ht, hi]
  | settleEndReset hp ht hi => simp [hp, ht, hi]
  | settleEndInit hp ht hi => simp [hp, ht, hi]
  | resetWaitEnd hp ht => simp [hp, ht]
  | done hp => simp [hp]

/-! ## The event of a cycle -/

/-- The event of a cycle without `rst`, by its phase. -/
theorem Cycle.trace_eq {s u : State} (h : Cycle s u) (hr : s.pins.rst = false) :
    u.trace = s.trace ++
      (if s.transfers = true then [.tx (frameByte s.fbuf s.bidx.toNat)]
       else if s.rspValid = true then [.ret s.rval]
       else if s.pins.rst = false ∧ s.tmr = 1 then ((waitMs s.phase).map Event.wait).toList
       else []) := by
  cases h with
  | quiet hp hv => simp [State.transfers, State.txValid, State.rspValid, hp, waitMs]
  | accept u ha he =>
    have htrace : u.trace = s.trace := by cases accepted_of_exec he <;> rfl
    simp [State.transfers, State.txValid, State.rspValid, idle_of_accepts ha, waitMs, htrace]
  | stall hp hb hready => simp [State.transfers, State.rspValid, hp, hready, waitMs]
  | byte hp hb hready => simp [State.transfers, State.txValid, hp, hr, hready]
  | lastByte hp hb hready => simp [State.transfers, State.txValid, hp, hr, hready, hb]
  | count n hp ht =>
    rcases hp with hp | hp | hp <;> simp [State.transfers, State.txValid, State.rspValid, hp, ht]
  | bootEnd hp ht => simp [State.transfers, State.txValid, State.rspValid, hp, hr, ht, waitMs, tBootMs]
  | settleEndOperation hp ht hi | settleEndReset hp ht hi | settleEndInit hp ht hi =>
    simp [State.transfers, State.txValid, State.rspValid, hp, hr, ht, waitMs, tSettleMs]
  | resetWaitEnd hp ht => simp [State.transfers, State.txValid, State.rspValid, hp, hr, ht, waitMs, tResetMs]
  | done hp => simp [State.transfers, State.txValid, State.rspValid, hp, hr]

/-- Settles O43: under `rst` no pin shows an event, and without it each cycle is one of `Cycle.trace_eq`. -/
theorem eventsAreWhatThePinsShow : Obligations.EventsAreWhatThePinsShow := by
  intro s t h
  rcases step_cases h with ⟨hr, rfl⟩ | ⟨hr, u, hcycle, rfl⟩
  · simp [State.transfers, State.txValid, State.rspValid, hr]
  · exact hcycle.trace_eq hr

/-! ## The inputs along a span -/

section Inputs

variable {s u : State} {a b n : Nat}

theorem NoReset.mono (h : NoReset s n) (hle : b ≤ n) : NoReset s b := fun k hk => h k (hk.trans_le hle)

theorem NoReset.here (h : NoReset s n) (hpos : 0 < n) : s.pins.rst = false := h 0 hpos

theorem NoReset.after (h : NoReset s n) (hrun : runCycles a s = .next u) (hle : a + b ≤ n) : NoReset u b :=
  fun k hk => by
    rw [(runCycles_environment hrun).2]
    exact h (a + k) (by omega)

theorem NoReset.rst_after (h : NoReset s n) (hrun : runCycles a s = .next u) (hlt : a < n) : u.pins.rst = false :=
  (h.after (b := 1) hrun hlt).here one_pos

theorem readyCount_succ (s : State) (a n : Nat) :
    readyCount s a (n + 1) = readyCount s a n + if (s.pinsAt (a + n)).txReady then 1 else 0 := by
  simp [readyCount, List.range_succ]

theorem readyCount_after (hrun : runCycles a s = .next u) (b n : Nat) :
    readyCount u b n = readyCount s (a + b) n := by
  simp only [readyCount, (runCycles_environment hrun).2, Nat.add_assoc]

theorem TakesTen.after (h : TakesTen s a n) (hrun : runCycles a s = .next u) : TakesTen u 0 n := by
  obtain ⟨hpos, hcount, hlast⟩ := h
  refine ⟨hpos, (readyCount_after hrun 0 n).trans hcount, ?_⟩
  rwa [(runCycles_environment hrun).2, show a + (0 + n - 1) = a + n - 1 by omega]

/-- The tenth byte is taken in the last of the cycles, so nine in the others. -/
theorem TakesTen.nine_before (h : TakesTen s a (n + 1)) :
    readyCount s a n = 9 ∧ (s.pinsAt (a + n)).txReady = true := by
  obtain ⟨-, hcount, hlast⟩ := h
  rw [show a + (n + 1) - 1 = a + n by omega] at hlast
  rw [readyCount_succ, if_pos hlast] at hcount
  exact ⟨by omega, hlast⟩

end Inputs

theorem runCycles_one (s : State) : runCycles 1 s = step s := by
  rw [runCycles]
  cases step s <;> rfl

/-- One cycle more at the end of a span. -/
theorem runCycles_snoc {s u v : State} {n : Nat} (h : runCycles n s = .next u) (hstep : step u = .next v) :
    runCycles (n + 1) s = .next v := by
  rw [runCycles_add 1 h, runCycles_succ 0 hstep, runCycles_zero]

theorem State.ticks_pinsAt (s : State) (n k : Nat) : (s.ticks n).pinsAt k = s.pinsAt (n + k) := by
  cases k with
  | zero => rfl
  | succ k => simp [State.pinsAt, State.ticks, Nat.add_assoc]

theorem State.tick_ticks (s : State) (n : Nat) : (s.ticks n).tick = s.ticks (n + 1) := by
  rw [State.tick, State.ticks_pinsAt]
  simp [State.ticks, Nat.add_assoc]

/-! ## A stall -/

/-- Settles O50, by induction on the cycles of the stall. -/
theorem stallHoldsTheByte : Obligations.StallHoldsTheByte := by
  intro s n hp hb hr hready
  induction n with
  | zero => rfl
  | succ n ih =>
    have hrun := ih (hr.mono n.le_succ) fun k hk => hready k (hk.trans n.lt_succ_self)
    refine runCycles_snoc hrun ?_
    rw [step_send (s.ticks n) (hr n n.lt_succ_self) hp,
      sendByte_stall _ (s := s.ticks n) hb (hready n n.lt_succ_self), clocked_next, State.tick_ticks]

/-! ## A wait -/

/-- The state after `k` cycles of a wait, before the last one. -/
def State.waited (s : State) (k : Nat) : State := { s.ticks k with tmr := s.tmr - k }

theorem waited_tick (s : State) (k : Nat) :
    { s.waited k with tmr := s.tmr - (k + 1) }.tick = s.waited (k + 1) :=
  congrArg (fun u : State => { u with tmr := s.tmr - (k + 1) }) (State.tick_ticks s k)

/-- In a wait phase the cycles before the last count `TMR` down and change nothing else (41_delivery.md R133). -/
theorem runCycles_wait {s : State} {m k : Nat} (hp : waitLength s.params s.phase = some m) (hr : NoReset s s.tmr)
    (hk : k < s.tmr) : runCycles k s = .next (s.waited k) := by
  induction k with
  | zero => rfl
  | succ k ih =>
    refine runCycles_snoc (ih (by omega)) ?_
    have hcount : 1 < (s.waited k).tmr := by simp only [State.waited]; omega
    rw [step_wait (s.waited k) (hr k (by omega)) hp, waitCycle_count _ hcount, clocked_next, ← waited_tick]
    rfl

/-- The last cycle of a wait takes the phase's exit. -/
theorem step_waited_last {s : State} {m : Nat} (hp : waitLength s.params s.phase = some m) (hr : NoReset s s.tmr)
    (ht : 1 ≤ s.tmr) :
    step (s.waited (s.tmr - 1)) = clocked (waitExit s.phase (s.waited (s.tmr - 1))) := by
  have hlast : (s.waited (s.tmr - 1)).tmr = 1 := by simp only [State.waited]; omega
  rw [step_wait (s.waited (s.tmr - 1)) (hr (s.tmr - 1) (by omega)) hp, waitCycle_one _ hlast]
  rfl

/-- The exit of a wait leaves its phase. -/
theorem waitExit_leaves {s : State} {m : Nat} {ph : Phase} (hp : waitLength s.params ph = some m)
    (hi : ph = .settle → s.initStg ≠ 3#2) : ∃ u, waitExit ph s = .next u ∧ u.phase ≠ ph := by
  cases ph with
  | bootw => exact ⟨_, rfl, by simp⟩
  | rstw => exact ⟨_, rfl, by simp⟩
  | settle =>
    rcases initStg_cases s.initStg with h | h | h | h
    · exact ⟨_, settleExit_operation h, by simp⟩
    · exact ⟨_, settleExit_reset h, by simp⟩
    · exact ⟨_, settleExit_init h, by simp⟩
    · exact absurd h (hi rfl)
  | idle | send | done | unused6 | unused7 => cases hp

/-- Settles O49: the cycles before the last count (`runCycles_wait`), the last takes the exit. -/
theorem waitsLastExactlyTheirCount : Obligations.WaitsLastExactlyTheirCount := by
  intro s m hp ht hr hi
  refine ⟨fun k hk => runCycles_wait hp hr hk, ?_⟩
  obtain ⟨u, hu, hleft⟩ := waitExit_leaves (s := s.waited (s.tmr - 1)) hp hi
  have hlast := (step_waited_last hp hr ht).trans (congrArg clocked hu)
  have hend := runCycles_snoc (runCycles_wait hp hr (by omega)) hlast
  rw [Nat.sub_add_cancel ht] at hend
  exact ⟨u.tick, hend, hleft⟩

/-! ## Spans of a busy machine -/

theorem accepts_of_busy {s : State} (hp : s.phase ≠ .idle) : s.accepts = false := by
  simp [State.accepts, State.reqReady, hp]

/-- `n` cycles from `s` to `u` in which the operation in progress stays the same (`State.outcome`). -/
structure Spans (n : Nat) (s u : State) : Prop where
  run : runCycles n s = .next u
  outcome : u.outcome = s.outcome

theorem Spans.refl (s : State) : Spans 0 s s := ⟨rfl, rfl⟩

theorem Spans.trans {s u v : State} {a b : Nat} (h : Spans a s u) (h' : Spans b u v) : Spans (a + b) s v :=
  ⟨(runCycles_add b h.run).trans h'.run, h'.outcome.trans h.outcome⟩

/-- A span after `a` cycles, as part of a run from its start. -/
theorem Spans.run_after {r s u : State} {a b n : Nat} (h : Spans b s u) (hrun : runCycles a r = .next s)
    (hn : n = a + b) : runCycles n r = .next u := by
  rw [hn, runCycles_add b hrun, h.run]

/-- A cycle without `rst` that accepts nothing. -/
theorem Spans.cycle {s u : State} (hr : s.pins.rst = false) (hp : s.phase ≠ .idle) (h : step s = .next u) :
    Spans 1 s u :=
  ⟨(runCycles_one s).trans h, step_outcome_of_not_accepts hr (accepts_of_busy hp) h⟩

/-! ## `SEND` -/

/-- While the sink has not taken the last byte, `BIDX` counts the bytes it takes (41_delivery.md R124, R128). -/
theorem spans_sending {s : State} {n : Nat} (hp : s.phase = .send) (hr : NoReset s n)
    (hb : s.bidx.toNat + readyCount s 0 n ≤ 9) :
    ∃ u, Spans n s u ∧ u.phase = .send ∧ u.bidx.toNat = s.bidx.toNat + readyCount s 0 n ∧ u.initStg = s.initStg := by
  induction n with
  | zero => exact ⟨s, .refl s, hp, rfl, rfl⟩
  | succ n ih =>
    rw [readyCount_succ, Nat.zero_add] at hb ⊢
    obtain ⟨u, hspan, hu, hbidx, hstage⟩ := ih (hr.mono n.le_succ) (by omega)
    have hrst : u.pins.rst = false := hr.rst_after hspan.run n.lt_succ_self
    have hpins : u.pins = s.pinsAt n := (runCycles_environment hspan.run).2 0
    have hbusy : u.phase ≠ .idle := by simp [hu]
    have hstep := step_send u hrst hu
    rw [← hpins] at hb ⊢
    cases hready : u.pins.txReady with
    | false =>
      rw [sendByte_stall _ (by omega) hready] at hstep
      exact ⟨u.tick, hspan.trans (.cycle hrst hbusy hstep), hu, by simp [hbidx], hstage⟩
    | true =>
      simp only [hready, if_true] at hb ⊢
      rw [sendByte_next _ (by omega) hready] at hstep
      exact ⟨_, hspan.trans (.cycle hrst hbusy hstep), hu, (bidx_succ_toNat _ (by omega)).trans (by omega), hstage⟩

/-- A frame that the sink takes in `m` cycles, stalls included, is followed by its settling interval. -/
theorem spans_frame {s : State} {m : Nat} (hp : s.phase = .send) (hb : s.bidx = 0) (ht : TakesTen s 0 m)
    (hr : NoReset s m) :
    ∃ e, Spans m s e ∧ e.phase = .settle ∧ e.tmr = nSettle s.params ∧ e.initStg = s.initStg := by
  obtain ⟨n, rfl⟩ : ∃ n, m = n + 1 := Nat.exists_eq_succ_of_ne_zero ht.1.ne'
  obtain ⟨hnine, hlast⟩ := ht.nine_before
  obtain ⟨u, hspan, hu, hbidx, hstage⟩ := spans_sending hp (hr.mono n.le_succ) (by simp [hb, hnine])
  obtain ⟨hparams, hpins⟩ := runCycles_environment hspan.run
  have hrst : u.pins.rst = false := hr.rst_after hspan.run n.lt_succ_self
  have hready : u.pins.txReady = true := by
    rw [← State.pinsAt_zero, hpins]
    simpa using hlast
  have hstep := step_send u hrst hu
  rw [sendByte_last _ (by simpa [hb, hnine] using hbidx) hready] at hstep
  exact ⟨_, hspan.trans (.cycle hrst (by simp [hu]) hstep), rfl, congrArg nSettle hparams, hstage⟩

/-- Settles O28: the clauses on one cycle by `sendByte`, the ten cycles by `spans_sending` and `spans_frame`. -/
theorem sendCycleOffersOneByte : Obligations.SendCycleOffersOneByte := by
  refine ⟨fun s hp hr hb => ?_, fun s hp hb hr hready => ?_⟩
  · have hvalid : s.txValid = true := by simp [State.txValid, hp, hr]
    rw [step_send s hr hp]
    exact ⟨hvalid, if_pos hvalid, fun hstall => becomes_clocked (sendByte_stall _ hb hstall),
      fun htaken hlt => becomes_clocked (sendByte_next _ hlt htaken),
      fun htaken hlast => becomes_clocked (sendByte_last _ hlast htaken)⟩
  · have hcount {k : Nat} (hk : k ≤ 10) : readyCount s 0 k = k := by
      rw [readyCount, List.countP_eq_length.2, List.length_range]
      intro j hj
      rw [Nat.zero_add]
      exact hready j ((List.mem_range.1 hj).trans_le hk)
    refine ⟨fun k hk => ?_, ?_⟩
    · obtain ⟨u, hspan, hu, -⟩ := spans_sending hp (hr.mono hk.le) (by simp [hb, hcount hk.le]; omega)
      exact ⟨u, hspan.run, hu⟩
    · obtain ⟨e, hspan, he, -⟩ := spans_frame hp hb ⟨by decide, hcount le_rfl, hready 9 (by decide)⟩ hr
      exact ⟨e, hspan.run, he⟩

/-! ## The waits as spans -/

section Waits

variable {s u : State} {n m : Nat}

/-- A whole wait of `n` cycles, by the exit it takes. -/
theorem spans_wait (hp : waitLength s.params s.phase = some m) (ht : s.tmr = n) (hn : 1 ≤ n) (hr : NoReset s n)
    (he : waitExit s.phase (s.waited (n - 1)) = .next u) : Spans n s u.tick := by
  subst ht
  have hcount : Spans (s.tmr - 1) s (s.waited (s.tmr - 1)) := ⟨runCycles_wait hp hr (by omega), rfl⟩
  have hbusy : (s.waited (s.tmr - 1)).phase ≠ .idle := fun hidle => by
    rw [show s.phase = .idle from hidle] at hp
    cases hp
  have hlast := Spans.cycle (hr (s.tmr - 1) (by omega)) hbusy
    ((step_waited_last hp hr hn).trans (congrArg clocked he))
  have hspan := hcount.trans hlast
  rwa [Nat.sub_add_cancel hn] at hspan

theorem spans_bootw (hp : s.phase = .bootw) (ht : s.tmr = n) (hn : 1 ≤ n) (hr : NoReset s n) :
    ∃ u, Spans n s u ∧ u.phase = .send ∧ u.bidx = 0 ∧ u.initStg = s.initStg :=
  ⟨_, spans_wait (by rw [hp]; rfl) ht hn hr (congrFun (congrArg waitExit hp) _), rfl, rfl, rfl⟩

theorem spans_rstw (hp : s.phase = .rstw) (ht : s.tmr = n) (hn : 1 ≤ n) (hr : NoReset s n) :
    ∃ u, Spans n s u ∧ u.phase = .send ∧ u.bidx = 0 ∧ u.initStg = 2#2 :=
  ⟨_, spans_wait (by rw [hp]; rfl) ht hn hr (congrFun (congrArg waitExit hp) _), rfl, rfl, rfl⟩

theorem waitExit_of_settle (hp : s.phase = .settle) (v : State) : waitExit s.phase v = settleExit v :=
  congrFun (congrArg waitExit hp) v

theorem spans_settle_reset (hp : s.phase = .settle) (hi : s.initStg = 1#2) (ht : s.tmr = n) (hn : 1 ≤ n)
    (hr : NoReset s n) : ∃ u, Spans n s u ∧ u.phase = .rstw ∧ u.tmr = nReset s.params :=
  ⟨_, spans_wait (by rw [hp]; rfl) ht hn hr ((waitExit_of_settle hp _).trans (settleExit_reset hi)), rfl, rfl⟩

theorem spans_settle_done (hp : s.phase = .settle) (hi : s.initStg = 0#2 ∨ s.initStg = 2#2) (ht : s.tmr = n)
    (hn : 1 ≤ n) (hr : NoReset s n) : ∃ u, Spans n s u ∧ u.phase = .done := by
  rcases hi with hi | hi
  · exact ⟨_, spans_wait (by rw [hp]; rfl) ht hn hr ((waitExit_of_settle hp _).trans (settleExit_operation hi)), rfl⟩
  · exact ⟨_, spans_wait (by rw [hp]; rfl) ht hn hr ((waitExit_of_settle hp _).trans (settleExit_init hi)), rfl⟩

/-- A frame and its settling interval: the last frame of an operation is followed by `DONE`. -/
theorem spans_last_delivery {p : Params} (hparams : s.params = p) (hp : s.phase = .send) (hb : s.bidx = 0)
    (hi : s.initStg = 0#2 ∨ s.initStg = 2#2) (ht : TakesTen s 0 m) (hr : NoReset s (m + nSettle p)) :
    ∃ e d, Spans m s e ∧ e.phase = .settle ∧ Spans (m + nSettle p) s d ∧ d.phase = .done := by
  subst hparams
  obtain ⟨e, hframe, he, htimer, hstage⟩ := spans_frame hp hb ht (hr.mono (by omega))
  obtain ⟨d, hsettle, hd⟩ := spans_settle_done he (hstage ▸ hi) htimer (waitCycles_pos _ (by decide))
    (hr.after hframe.run le_rfl)
  exact ⟨e, d, hframe, he, hframe.trans hsettle, hd⟩

/-- INIT's Reset frame and its settling interval are followed by the reset wait. -/
theorem spans_reset_delivery {p : Params} (hparams : s.params = p) (hp : s.phase = .send) (hb : s.bidx = 0)
    (hi : s.initStg = 1#2) (ht : TakesTen s 0 m) (hr : NoReset s (m + nSettle p)) :
    ∃ d, Spans (m + nSettle p) s d ∧ d.phase = .rstw ∧ d.tmr = nReset p := by
  subst hparams
  obtain ⟨e, hframe, he, htimer, hstage⟩ := spans_frame hp hb ht (hr.mono (by omega))
  obtain ⟨d, hsettle, hd, hreset⟩ := spans_settle_reset he (hstage.trans hi) htimer (waitCycles_pos _ (by decide))
    (hr.after hframe.run le_rfl)
  exact ⟨d, hframe.trans hsettle, hd, hreset.trans (congrArg nReset (runCycles_environment hframe.run).1)⟩

end Waits

/-! ## The accept cycle and the operation's rule -/

/-- What an accept cycle begins, beside the trace that the operation's rule states (42_controller_ops.md R156). -/
inductive Begins (s : State) (i : Instr) : Prop
  | finish (v : Byte) (he : exec i s = .next (s.finish v)) (hp : perform s.params i s.arch = (s.arch, [.ret v]))
  | start (v : BitVec 5) (c : CommandCode) (h l : Byte) (he : exec i s = .next ((s.setVol v).start c h l))
      (hp : perform s.params i s.arch = (⟨v, s.online⟩, oneFrame c h l))
  | boot (a : Half) (hi : i = .init a)

theorem begins_atLimit {s : State} {i : Instr} (he : exec i s = volumeAtLimit s)
    (hp : perform s.params i s.arch = performAtLimit s.params s.arch) : Begins s i := by
  cases h : s.params.stepAtLimitSends with
  | true => exact .start s.vol _ _ _ (he.trans (volumeAtLimit_sends h)) (hp.trans (if_pos h))
  | false => exact .finish _ (he.trans (volumeAtLimit_silent h)) (hp.trans (if_neg (by simp [h])))

theorem exec_begins {i : Instr} (hi : i.isRequest = true) (s : State) : Begins s i := by
  cases i with
  | init a => exact .boot a rfl
  | setvol v => exact .start _ _ _ _ rfl rfl
  | volup a =>
    rcases Nat.lt_or_ge s.vol.toNat 30 with h | h
    · exact .start _ _ _ _ (exec_volup_room a h) (if_pos h)
    · exact begins_atLimit (exec_volup_limit a h) (if_neg h.not_gt)
  | voldn a =>
    rcases Nat.eq_zero_or_pos s.vol.toNat with h | h
    · exact begins_atLimit (exec_voldn_limit a h) (if_neg h.not_gt)
    · exact .start _ _ _ _ (exec_voldn_room a h) (if_pos h)
  | isonline | getvol | reservedD | reservedE | reservedF => exact .finish _ rfl rfl
  | playtrk | playfld | pause | resume | stop | next | prev => exact .start s.vol _ _ _ rfl rfl
  | _ => cases hi

theorem accept_begins (s : State) : Begins s s.request := exec_begins (decodeReq_isRequest _) s

theorem runCycles_accept {s u : State} (ha : s.accepts = true) (he : exec s.request s = .next u) :
    runCycles 1 s = .next u.tick := by
  rw [runCycles_one, step_accept s ha, he, clocked_next]

@[simp] theorem length_deliver (f : BitVec 80) : (deliver f).length = 11 := by simp [deliver, frameBytes]

@[simp] theorem length_oneFrame (c : CommandCode) (h l : Byte) : (oneFrame c h l).length = 12 := by simp [oneFrame]

@[simp] theorem length_performInit (a : Arch) : (performInit a).2.length = 25 := by simp [performInit]

/-- The `DONE` cycle returns with the outcome of the operation. -/
theorem done_returns {d : State} {a : Arch} {tr : List Event} {v : Byte} (hp : d.phase = .done)
    (hr : d.pins.rst = false) (ho : d.outcome = (a, tr ++ [.ret v])) :
    d.arch = a ∧ d.rval = v ∧
      ∃ t, runCycles 1 d = .next t ∧ t.phase = .idle ∧ t.arch = a ∧ t.trace = tr ++ [.ret v] := by
  rw [outcome_of_done hp, Prod.mk.injEq] at ho
  obtain ⟨harch, htrace⟩ := ho
  have hret : d.rval = v := by simpa using (List.append_inj' htrace rfl).2
  refine ⟨harch, hret, { d.emit (.ret d.rval) with phase := .idle }.tick, ?_, rfl, harch, htrace⟩
  rw [runCycles_one, step_done d hr hp]
  rfl

/-- Settles O51: only an accept cycle that finishes at once has a return alone as its trace (`exec_begins`). -/
theorem noFrameOperationReturnsAtOnce : Obligations.NoFrameOperationReturnsAtOnce := by
  intro s v ha hr htrace
  cases accept_begins s with
  | finish w he hp =>
    obtain rfl : w = v := by simpa [hp] using htrace
    have haccept := runCycles_accept ha he
    obtain ⟨-, -, t, hdone, hidle, harch, htr⟩ :=
      done_returns (d := (s.finish w).tick) rfl (hr.rst_after haccept one_lt_two) (outcome_finish s w)
    exact ⟨_, t, haccept, rfl, rfl, (runCycles_add 1 haccept).trans hdone, hidle, harch, htr⟩
  | start w c h l he hp =>
    rw [hp] at htrace
    simpa using congrArg List.length htrace
  | boot a hi =>
    rw [hi] at htrace
    simpa [perform] using congrArg List.length htrace

/-- Settles O52: the accept cycle starts the frame (`exec_begins`), which is taken and settles (`spans_last_delivery`);
`DONE` returns what the accept cycle began. -/
theorem oneFrameOperationReturnsOnTime : Obligations.OneFrameOperationReturnsOnTime := by
  intro s f m ha htrace ht hr
  cases accept_begins s with
  | finish w he hp =>
    rw [hp] at htrace
    simpa using congrArg List.length htrace
  | boot a hi =>
    rw [hi] at htrace
    simpa [perform] using congrArg List.length htrace
  | start v c h l he hp =>
    have haccept := runCycles_accept ha he
    have hbegun : ((s.setVol v).start c h l).outcome =
        ((perform s.params s.request s.arch).1, s.trace ++ deliver f ++ [.ret 0x00#8]) := by
      rw [outcome_start, List.append_assoc, ← htrace, hp]
      rfl
    obtain ⟨e, d, hframe, he', hall, hd⟩ := spans_last_delivery (s := ((s.setVol v).start c h l).tick)
      (p := s.params) rfl rfl rfl (.inl rfl) (ht.after haccept) (hr.after haccept (by omega))
    have hrun : runCycles (m + 1 + nSettle s.params) s = .next d := hall.run_after haccept (by omega)
    obtain ⟨-, hret, t, hdone, hidle, harch, htr⟩ :=
      done_returns hd (hr.rst_after hrun (by omega)) (hall.outcome.trans hbegun)
    refine ⟨e, d, t, hframe.run_after haccept (Nat.add_comm m 1), he', hrun, hd, hret, ?_, hidle, harch, htr⟩
    rw [Nat.add_right_comm (m + 1) 1]
    exact (runCycles_add 1 hrun).trans hdone

/-- INIT's rule with a volume that needs no clamp (42_controller_ops.md R140). -/
theorem performInit_of_legal {a : Arch} (h : a.vol.toNat ≤ 30) :
    performInit a = (⟨a.vol, true⟩,
      [.wait 500] ++ deliver (encodeFrame 0x0C#8 0x00#8 0x00#8) ++ [.wait 1000] ++
        deliver (encodeFrame 0x06#8 0x00#8 (volumeByte a.vol)) ++ [.ret 0x00#8]) := by
  rw [performInit, clampVolume_of_legal h]

/-- INIT's cycles from its accept cycle on: the boot wait, the Reset frame, the reset wait and the volume frame, the
frames taken in `m` and `n` cycles, keep the operation in progress and end in `DONE`. -/
theorem init_reaches_done {s b : State} {m n first second last : Nat} (haccept : runCycles 1 s = .next b)
    (hp : b.phase = .bootw) (hi : b.initStg = 1#2) (ht : b.tmr = nBoot s.params)
    (hfirst : first = 1 + nBoot s.params) (hsecond : second = first + m + nSettle s.params + nReset s.params)
    (hlast : last = second + n + nSettle s.params) (hm : TakesTen s first m) (hn : TakesTen s second n)
    (hr : NoReset s last) : ∃ d, runCycles last s = .next d ∧ d.phase = .done ∧ d.outcome = b.outcome := by
  obtain ⟨c, hboot, hcp, hcb, hci⟩ := spans_bootw hp ht (waitCycles_pos _ (by decide)) (hr.after haccept (by omega))
  have hc : runCycles first s = .next c := hboot.run_after haccept hfirst
  obtain ⟨d, hreset, hdp, hdt⟩ := spans_reset_delivery (runCycles_environment hc).1 hcp hcb (hci.trans hi)
    (hm.after hc) (hr.after hc (by omega))
  have hd : runCycles (first + m + nSettle s.params) s = .next d := hreset.run_after hc (by omega)
  obtain ⟨e, hwait, hep, heb, hei⟩ := spans_rstw hdp hdt (waitCycles_pos _ (by decide)) (hr.after hd (by omega))
  have he : runCycles second s = .next e := hwait.run_after hd hsecond
  obtain ⟨-, f, -, -, hvolume, hfp⟩ := spans_last_delivery (runCycles_environment he).1 hep heb (.inr hei)
    (hn.after he) (hr.after he (by omega))
  exact ⟨f, hvolume.run_after he (by omega), hfp, (((hboot.trans hreset).trans hwait).trans hvolume).outcome⟩

/-- Settles O53: the accept cycle begins what `performInit` states (`outcome_init`), and INIT's spans keep it until
`DONE` returns it (`init_reaches_done`). -/
theorem initReturnsOnTime : Obligations.InitReturnsOnTime := by
  intro s a m n ha hreq hvol first second last hm hn hr
  have haccept := runCycles_accept ha (congrArg (exec · s) hreq)
  obtain ⟨d, hrun, hdp, hout⟩ := init_reaches_done haccept rfl rfl rfl rfl rfl rfl hm hn (hr.mono last.le_succ)
  have hbegun := hout.trans (outcome_init hvol)
  rw [performInit_of_legal hvol, ← List.append_assoc] at hbegun
  obtain ⟨hdone, hret, t, hstep, hidle, harch, htrace⟩ := done_returns hdp (hr.rst_after hrun last.lt_succ_self) hbegun
  refine ⟨d, t, hrun, hdp, hret, congrArg Arch.online hdone, (runCycles_add 1 hrun).trans hstep, hidle,
    congrArg Arch.vol harch, congrArg Arch.online harch, ?_⟩
  rw [htrace]
  simp [volumeByte, State.arch]

/-! ## The refinement -/

/-- Cycles without `rst` and outside `IDLE` keep the operation in progress. -/
theorem spans_busy {s t : State} {n : Nat} (hr : NoReset s n)
    (hbusy : ∀ k u, k < n → runCycles k s = .next u → u.phase ≠ .idle) (h : runCycles n s = .next t) : Spans n s t := by
  induction n generalizing s with
  | zero =>
    cases h
    exact .refl _
  | succ n ih =>
    obtain ⟨u, hstep, hrun⟩ := runCycles_succ_inv h
    have hfirst : Spans 1 s u := .cycle (hr.here n.succ_pos) (hbusy 0 s n.succ_pos rfl) hstep
    rw [Nat.add_comm]
    exact hfirst.trans (ih (hr.after hfirst.run (by omega))
      (fun k v hk hv => hbusy (k + 1) v (by omega) ((runCycles_succ k hstep).trans hv)) hrun)

/-- Settles O54: the accept cycle begins what the operation's rule states, and the operation in progress stays the same
until the machine is back in `IDLE`. -/
theorem clockedRunRefinesTheOperation : Obligations.ClockedRunRefinesTheOperation := by
  rintro s t n ha hvol hr ⟨hpos, hrun, hidle, hbusy⟩
  obtain ⟨n, rfl⟩ : ∃ k, n = k + 1 := Nat.exists_eq_succ_of_ne_zero hpos.ne'
  obtain ⟨u, hstep, hrest⟩ := runCycles_succ_inv hrun
  have hspan : Spans n u t := spans_busy (hr.after ((runCycles_one s).trans hstep) (by omega))
    (fun k v hk hv => hbusy (k + 1) v k.succ_pos (by omega) ((runCycles_succ k hstep).trans hv)) hrest
  have hend := hspan.outcome.trans (step_outcome_of_accepts ha hvol hstep)
  rw [outcome_of_idle hidle, Prod.mk.injEq] at hend
  exact hend

/-! ## The distance between frames -/

/-- A lower bound on the number of cycles before the next cycle in `SEND` (41_delivery.md R135 (d)). -/
def State.silence (s : State) : Nat :=
  match s.phase with
  | .idle => 1
  | .bootw => s.tmr
  | .send => 0
  | .settle => s.tmr + if s.initStg = 1#2 then nReset s.params else 2
  | .rstw => s.tmr
  | .done => 2
  | .unused6 => 0
  | .unused7 => 0

/-- A cycle shortens the silence ahead by one at most. -/
theorem Cycle.silence_le {s u : State} (h : Cycle s u) : s.silence ≤ u.silence + 1 := by
  cases h with
  | quiet hp hv => exact Nat.le_succ _
  | accept u ha he => simp [State.silence, idle_of_accepts ha]
  | stall hp hb hready => exact Nat.le_succ _
  | byte hp hb hready => simp [State.silence, hp]
  | lastByte hp hb hready => simp [State.silence, hp]
  | count n hp ht => rcases hp with hp | hp | hp <;> simp only [State.silence, hp, ht] <;> omega
  | bootEnd hp ht => simp [State.silence, hp, ht]
  | settleEndOperation hp ht hi => simp [State.silence, hp, ht, hi]
  | settleEndReset hp ht hi => simp [State.silence, hp, ht, hi, Nat.add_comm]
  | settleEndInit hp ht hi => simp [State.silence, hp, ht, hi]
  | resetWaitEnd hp ht => simp [State.silence, hp, ht]
  | done hp => simp [State.silence, hp]

theorem silence_le_of_runCycles {s t : State} {n : Nat} (hr : NoReset s n) (h : runCycles n s = .next t) :
    s.silence ≤ t.silence + n := by
  induction n generalizing s with
  | zero =>
    cases h
    exact le_rfl
  | succ n ih =>
    obtain ⟨u, hstep, hrun⟩ := runCycles_succ_inv h
    have hrest := ih (hr.after ((runCycles_one s).trans hstep) (by omega)) hrun
    rcases step_cases hstep with ⟨hrst, -⟩ | ⟨-, v, hcycle, rfl⟩
    · simp [hr.here n.succ_pos] at hrst
    · have hfirst : s.silence ≤ v.tick.silence + 1 := hcycle.silence_le
      omega

/-- Settles O55: the silence ahead is 0 in `SEND`, and one cycle takes at most one from it. -/
theorem framesAreKeptApart : Obligations.FramesAreKeptApart := by
  intro s t n hp ht hr hrun hsend
  have hsilence := silence_le_of_runCycles hr hrun
  have hreset : 2 ≤ nReset s.params := by
    have := s.params.cyclesPerMs.pos
    simp only [nReset, waitCycles, tResetMs]
    omega
  simp only [State.silence, hp, hsend, ht] at hsilence
  split_ifs at hsilence with hi
  · exact ⟨by omega, fun _ => by omega⟩
  · exact ⟨by omega, fun hi' => absurd hi' hi⟩

end Sys2Proof.Machine

/-! SUPPORT and PROOFS. The controller family: what the operations have in common (42_controller_ops.md R147, R154 to
R156). The accept cycle goes through the three ways a request begins (`exec_begins`); at the abstract level VOLUP and
VOLDN, which store a volume or stop at their limit, share their lemmas. -/

namespace Sys2Proof.Machine

/-! ## The accept cycle -/

/-- Settles O22: both start the Pause frame. -/
theorem resumeEqualsPause : Obligations.ResumeEqualsPause := fun _ _ _ _ _ => ⟨rfl, rfl⟩

theorem volumeAfter_of_ne {i : Instr} (hi : ∀ a, i ≠ .setvol a ∧ i ≠ .volup a ∧ i ≠ .voldn a) (v : Int) :
    volumeAfter i v = v := by
  cases i with
  | setvol a => exact absurd rfl (hi a).1
  | volup a => exact absurd rfl (hi a).2.1
  | voldn a => exact absurd rfl (hi a).2.2
  | _ => rfl

/-- The requests that are not about the volume keep it (42_controller_ops.md R154). -/
theorem exec_vol_eq {i : Instr} (hi : i.isRequest = true) {s t : State} (he : exec i s = .next t)
    (hne : ∀ a, i ≠ .setvol a ∧ i ≠ .volup a ∧ i ≠ .voldn a) : t.vol = s.vol := by
  have hvol := exec_volume hi he
  rw [volumeAfter_of_ne hne] at hvol
  exact BitVec.eq_of_toNat_eq (by exact_mod_cast hvol)

/-- Settles O24: the volume by `exec_vol_eq`, the rest by the three ways a request begins (`exec_begins`). -/
theorem requestsLeaveTheRestUnchanged : Obligations.RequestsLeaveTheRestUnchanged := by
  intro i s t hi he
  have hvol := exec_vol_eq hi he
  cases exec_begins hi s with
  | finish v hb =>
    cases hb.symm.trans he
    exact ⟨rfl, rfl, rfl, rfl, rfl, rfl, hvol, fun _ => rfl, fun _ => ⟨rfl, rfl⟩⟩
  | start v c h l hb =>
    cases hb.symm.trans he
    exact ⟨rfl, rfl, rfl, rfl, rfl, rfl, hvol, fun _ => rfl, fun hp => absurd rfl hp⟩
  | boot a hinit =>
    subst hinit
    cases he
    exact ⟨rfl, rfl, rfl, rfl, rfl, rfl, hvol, fun hne => absurd rfl (hne a), fun _ => ⟨rfl, rfl⟩⟩

/-! ## Independence of `ONLINE` -/

/-- The machine with another online flag. -/
def State.setOnline (b : Bool) (s : State) : State := { s with online := b }

/-- The operation neither looks at `ONLINE` nor writes it. -/
def IgnoresOnline (f : State → Answer) : Prop :=
  ∀ (b : Bool) (s : State), f (s.setOnline b) = onNext (State.setOnline b) (f s)

theorem volumeAtLimit_ignoresOnline : IgnoresOnline volumeAtLimit := by
  intro b s
  cases h : s.params.stepAtLimitSends with
  | false => rw [volumeAtLimit_silent h, volumeAtLimit_silent (s := s.setOnline b) h]; rfl
  | true => rw [volumeAtLimit_sends h, volumeAtLimit_sends (s := s.setOnline b) h]; rfl

theorem sendByte_ignoresOnline (f : BitVec 80) : IgnoresOnline (sendByte f) := by
  intro b s
  rcases sendByte_cases f s with ⟨hb, he⟩ | ⟨hb, hr, he⟩ | ⟨hb, hr, he⟩ | ⟨hb, hr, he⟩ <;> rw [he]
  · rw [sendByte_beyond f (s := s.setOnline b) hb]; rfl
  · rw [sendByte_stall f (s := s.setOnline b) hb hr]; rfl
  · rw [sendByte_next f (s := s.setOnline b) hb hr]; rfl
  · rw [sendByte_last f (s := s.setOnline b) hb hr]; rfl

theorem request_ignoresOnline {i : Instr} (hi : i.isRequest = true) (hne : ∀ a, i ≠ .isonline a) :
    IgnoresOnline (exec i) := by
  intro b s
  cases i with
  | isonline a => exact absurd rfl (hne a)
  | volup a =>
    rcases Nat.lt_or_ge s.vol.toNat 30 with h | h
    · rw [exec_volup_room a h, exec_volup_room (s := s.setOnline b) a h]; rfl
    · rw [exec_volup_limit a h, exec_volup_limit (s := s.setOnline b) a h, volumeAtLimit_ignoresOnline]
  | voldn a =>
    rcases Nat.eq_zero_or_pos s.vol.toNat with h | h
    · rw [exec_voldn_limit a h, exec_voldn_limit (s := s.setOnline b) a h, volumeAtLimit_ignoresOnline]
    · rw [exec_voldn_room a h, exec_voldn_room (s := s.setOnline b) a h]; rfl
  | init | setvol | getvol | playtrk | playfld | pause | resume | stop | next | prev | reservedD | reservedE
  | reservedF => rfl
  | _ => cases hi

/-- Settles O46: a request by its arm, a frame because its cycle is one of `SEND` (`exec_frame`). -/
theorem onlyIsonlineDependsOnOnline : Obligations.OnlyIsonlineDependsOnOnline := by
  intro i s b hne
  cases hi : i.isRequest with
  | true => exact request_ignoresOnline hi hne b s
  | false =>
    obtain ⟨x, hx⟩ := exists_frameFields hi
    rw [exec_frame i x hx, exec_frame i x hx]
    exact sendByte_ignoresOnline _ b s

/-! ## The shapes of the traces -/

/-- A return alone, or one frame of an issued command and a return of 0 (42_controller_ops.md R156 (a), (b)). -/
def AtMostOneFrame (tr : List Event) : Prop :=
  (∃ v, tr = [.ret v]) ∨ ∃ c ∈ issuedCodes, ∃ h l, tr = deliver (encodeFrame c h l) ++ [.ret 0x00#8]

theorem atMostOneFrame_ret (v : Byte) : AtMostOneFrame [.ret v] := .inl ⟨v, rfl⟩

theorem atMostOneFrame_oneFrame {c : CommandCode} (hc : c ≠ .queryStatus) (h l : Byte) :
    AtMostOneFrame (oneFrame c h l) := .inr ⟨c.code, code_mem_issuedCodes hc, h, l, rfl⟩

/-- VOLUP and VOLDN: a volume is stored and sent, or the parameter decides at the limit (C5). -/
theorem atMostOneFrame_storeOrLimit (p : Params) (a : Arch) (v : BitVec 5) (room : Prop) [Decidable room] :
    AtMostOneFrame (if room then performStore a v else performAtLimit p a).2 := by
  unfold performAtLimit
  split_ifs
  · exact atMostOneFrame_oneFrame (by decide) _ _
  · exact atMostOneFrame_oneFrame (by decide) _ _
  · exact atMostOneFrame_ret _

theorem perform_atMostOneFrame (p : Params) {i : Instr} (a : Arch) (hi : i.isRequest = true)
    (hne : ∀ x, i ≠ .init x) : AtMostOneFrame (perform p i a).2 := by
  cases i with
  | init x => exact absurd rfl (hne x)
  | volup x => exact atMostOneFrame_storeOrLimit p a _ _
  | voldn x => exact atMostOneFrame_storeOrLimit p a _ _
  | isonline | getvol | reservedD | reservedE | reservedF => exact atMostOneFrame_ret _
  | setvol | playtrk | playfld | pause | resume | stop | next | prev =>
    exact atMostOneFrame_oneFrame (by decide) _ _
  | _ => cases hi

/-- Settles O58: INIT by its rule, with the clamped volume; every other request by `perform_atMostOneFrame`. -/
theorem tracesHaveOneOfThreeShapes : Obligations.TracesHaveOneOfThreeShapes := by
  intro p i a hi
  by_cases hinit : ∃ x, i = .init x
  · obtain ⟨x, rfl⟩ := hinit
    have hlegal : (volumeByte (clampVolume a.vol.toNat)).toNat ≤ 30 := by
      rw [volumeByte_toNat]
      exact clampVolume_le _
    exact .inr (.inr ⟨⟨x, rfl⟩, _, hlegal, rfl⟩)
  · exact (perform_atMostOneFrame p a hi (not_exists.1 hinit)).imp_right .inl

/-! ## The registers between operations -/

theorem performAtLimit_arch (p : Params) (a : Arch) : (performAtLimit p a).1 = a := by
  unfold performAtLimit
  split <;> rfl

/-- The registers after VOLUP and VOLDN: with room the volume `v` is stored, at the limit nothing is (R151, R152). -/
theorem arch_storeOrLimit (p : Params) (a : Arch) (v : BitVec 5) (room : Prop) [Decidable room] :
    (if room then performStore a v else performAtLimit p a).1 = if room then ⟨v, a.online⟩ else a := by
  split
  · rfl
  · exact performAtLimit_arch p a

theorem vol_legal_storeOrLimit (p : Params) {a : Arch} {v : BitVec 5} {room : Prop} [Decidable room]
    (h : a.vol.toNat ≤ 30) (hv : room → v.toNat ≤ 30) :
    (if room then performStore a v else performAtLimit p a).1.vol.toNat ≤ 30 := by
  rw [arch_storeOrLimit]
  split
  · exact hv ‹_›
  · exact h

theorem online_storeOrLimit (p : Params) (a : Arch) (v : BitVec 5) (room : Prop) [Decidable room] :
    (if room then performStore a v else performAtLimit p a).1.online = a.online := by
  rw [arch_storeOrLimit]
  split <;> rfl

/-- No operation leaves an illegal volume (42_controller_ops.md R156 (d)). -/
theorem perform_vol_legal (p : Params) (i : Instr) {a : Arch} (h : a.vol.toNat ≤ 30) :
    (perform p i a).1.vol.toNat ≤ 30 := by
  cases i with
  | init x => exact clampVolume_le _
  | setvol v => exact clampVolume_le _
  | volup x => exact vol_legal_storeOrLimit p h fun hroom => by rw [vol_succ_toNat _ hroom]; omega
  | voldn x => exact vol_legal_storeOrLimit p h fun hroom => by rw [vol_pred_toNat _ hroom]; omega
  | _ => exact h

/-- Only INIT writes `ONLINE`, and it sets it (42_controller_ops.md R156 (e)). -/
theorem perform_online (p : Params) (i : Instr) (a : Arch) :
    (perform p i a).1.online = true ↔ a.online = true ∨ ∃ x, i = .init x := by
  cases i with
  | init x => exact ⟨fun _ => .inr ⟨x, rfl⟩, fun _ => rfl⟩
  | volup x => simp [perform, online_storeOrLimit]
  | voldn x => simp [perform, online_storeOrLimit]
  | _ => simp [perform, performStore]

/-- Settles O59, by induction on the program, one operation at a time (`perform_vol_legal`, `perform_online`). -/
theorem programsKeepVolumeLegalAndOnlineMonotone : Obligations.ProgramsKeepVolumeLegalAndOnlineMonotone := by
  intro p is
  induction is with
  | nil => exact fun a h => ⟨h, by simp [performAll]⟩
  | cons i is ih =>
    intro a h
    obtain ⟨hvol, honline⟩ := ih (perform p i a).1 (perform_vol_legal p i h)
    refine ⟨hvol, honline.trans ?_⟩
    rw [perform_online, or_assoc, ← exists_or]
    simp only [List.mem_cons, eq_comm]

end Sys2Proof.Machine

/-! SUPPORT and PROOFS. The exceptions family: SGFE raises none (60_exceptions.md R170), and `rst` wins over everything
(R173). A step stops only where a cycle's answer is no next state, so each phase's cycle is shown to answer one. -/

namespace Sys2Proof.Machine

/-! ## No cycle of a state that meets the invariants stops -/

/-- The clock edge stops nothing. -/
theorem exists_clocked_eq_next {a : Answer} (h : ∃ u, a = .next u) : ∃ t, clocked a = .next t := by
  obtain ⟨u, rfl⟩ := h
  exact ⟨u.tick, rfl⟩

/-- `FBUF` has a byte to hand over wherever `BIDX` may stand (10_state.md R29 (c)). -/
theorem exists_sendByte_eq_next (f : BitVec 80) {s : State} (hb : s.bidx.toNat ≤ 9) : ∃ u, sendByte f s = .next u := by
  rcases sendByte_cases f s with ⟨hbeyond, -⟩ | ⟨-, -, he⟩ | ⟨-, -, he⟩ | ⟨-, -, he⟩
  · omega
  · exact ⟨_, he⟩
  · exact ⟨_, he⟩
  · exact ⟨_, he⟩

/-- A wait that is not over counts or takes its exit (41_delivery.md R133). -/
theorem exists_waitCycle_eq_next {exit : State → Answer} {s : State} (ht : 1 ≤ s.tmr) (hexit : ∃ u, exit s = .next u) :
    ∃ u, waitCycle exit s = .next u := by
  rcases ht.eq_or_lt with hlast | hmore
  · rw [waitCycle_one exit hlast.symm]
    exact hexit
  · exact ⟨_, waitCycle_count exit hmore⟩

/-- Stage 3 of INIT does not occur (10_state.md R29 (d)). -/
theorem State.Inv.initStg_ne_three {s : State} (h : s.Inv) : s.initStg ≠ 3#2 := fun h3 => by
  simpa [h3] using h.initStage

/-- A wait phase's cycle: `TMR` is not 0, and each stage of INIT that occurs has its exit. -/
theorem State.Inv.exists_step_wait {s : State} {m : Nat} (h : s.Inv) (hr : s.pins.rst = false)
    (hp : waitLength s.params s.phase = some m) : ∃ t, step s = .next t := by
  obtain ⟨hpos, -⟩ := h.timer m hp
  obtain ⟨u, hexit, -⟩ := waitExit_leaves hp fun _ => h.initStg_ne_three
  rw [step_wait s hr hp]
  exact exists_clocked_eq_next (exists_waitCycle_eq_next hpos ⟨u, hexit⟩)

/-- An `IDLE` cycle: every request word is accepted (60_exceptions.md R170), and without one nothing happens. -/
theorem exists_step_idle {s : State} (hr : s.pins.rst = false) (hp : s.phase = .idle) : ∃ t, step s = .next t := by
  cases hv : s.pins.reqValid with
  | false => exact ⟨_, step_quiet s hr hp hv⟩
  | true =>
    obtain ⟨u, hu, -⟩ := exec_request _ (decodeReq_isRequest (reqWord s.pins.reqOp s.pins.reqArg)) s
    rw [step_of_request hr hp hv]
    exact exists_clocked_eq_next ⟨u, hu⟩

/-- Settles O39: under `rst` the reset edge follows; without it each phase's cycle answers a next state. -/
theorem invariantStatesNeverStop : Obligations.InvariantStatesNeverStop := by
  intro s h
  obtain ⟨hne6, hne7⟩ := h.phase
  cases hr : s.pins.rst with
  | true => exact ⟨_, step_rst s hr⟩
  | false =>
    cases hp : s.phase with
    | idle => exact exists_step_idle hr hp
    | send =>
      rw [step_send s hr hp]
      exact exists_clocked_eq_next (exists_sendByte_eq_next s.fbuf h.byteIndex)
    | bootw | settle | rstw =>
      obtain ⟨m, hw⟩ : ∃ m, waitLength s.params s.phase = some m := ⟨_, by rw [hp]; rfl⟩
      exact h.exists_step_wait hr hw
    | done =>
      rw [step_done s hr hp]
      exact exists_clocked_eq_next ⟨_, rfl⟩
    | unused6 => exact absurd hp hne6
    | unused7 => exact absurd hp hne7

/-! ## `rst` -/

/-- The output pins are forced to 0 while `rst` is 1 (10_state.md R32). -/
theorem outputs_of_rst {s : State} (hr : s.pins.rst = true) :
    s.reqReady = false ∧ s.txValid = false ∧ s.rspValid = false := by
  simp [State.reqReady, State.txValid, State.rspValid, hr]

/-- In `IDLE` SGFE is ready as soon as `rst` is 0 (41_delivery.md R125). -/
theorem reqReady_of_idle {s : State} (hp : s.phase = .idle) (hr : s.pins.rst = false) : s.reqReady = true := by
  simp [State.reqReady, hp, hr]

/-- Settles O33: the outputs are forced to 0, and the next state is the reset edge's, in `IDLE`. -/
theorem rstWinsOverEverything : Obligations.RstWinsOverEverything := by
  intro s hr
  obtain ⟨hready, htx, hrsp⟩ := outputs_of_rst hr
  have hidle : s.resetEdge.tick.phase = .idle := rfl
  exact ⟨hready, htx, hrsp, _, step_rst s hr, rfl, rfl, hidle, rfl, rfl, rfl, rfl, rfl, rfl, reqReady_of_idle hidle⟩

end Sys2Proof.Machine
